-- ==== Sys2Proof/Word.lean ====
section
/-! DEFINITION. The widths of the block's values (00_scope.md section 4, 30_encoding.md R60, R69). Every one is an
unsigned bit field; the block computes no arithmetic on them (R116). -/

namespace Sys2Proof

/-- One input byte `b`, 0x00..0xFF (R2), and one byte of SysEx payload (R46). -/
abbrev Byte := BitVec 8

/-- The operation word `w[8:0]` (R61): bit 8 selects `reset`, else bits 7..0 are the byte fed. -/
abbrev OpWord := BitVec 9

/-- A channel, 0..15: bits 3..0 of a Channel Voice status byte (R60, R69). -/
abbrev Channel := BitVec 4

/-- A family nibble `f = b[7:4]` (R63). -/
abbrev Nibble := BitVec 4

/-- A data value, 0..127: bits 6..0 of a data byte (R60, R69). -/
abbrev Data7 := BitVec 7

/-- The 3-bit subtype code of a System Common or System Real-Time byte (R65, R66). -/
abbrev Code := BitVec 3

end Sys2Proof
end

