-- ==== Sys2Proof/Syntax.lean ====
section
/-! DEFINITION. The block's operations: one constructor per row of spec/opcode_table.json (R62). -/

namespace Sys2Proof

/-- The 24 classes of `feed` and the `reset` operation (R62). The operands are the fields of the fed byte (R60). -/
inductive Instr where
  /-- `FEED.DATA`, byte 0x00..0x7F, `d = b[6:0]` (R109). -/
  | data (d : Data7)
  /-- `FEED.NOTEOFF`, byte 0x8c (R102). -/
  | noteOff (ch : Channel)
  /-- `FEED.NOTEON`, byte 0x9c (R103). -/
  | noteOn (ch : Channel)
  /-- `FEED.POLYPRESS`, byte 0xAc (R104). -/
  | polyPress (ch : Channel)
  /-- `FEED.CC`, byte 0xBc (R105). -/
  | cc (ch : Channel)
  /-- `FEED.PROGCHG`, byte 0xCc (R106). -/
  | progChg (ch : Channel)
  /-- `FEED.CHANPRESS`, byte 0xDc (R107). -/
  | chanPress (ch : Channel)
  /-- `FEED.PITCHBEND`, byte 0xEc (R108). -/
  | pitchBend (ch : Channel)
  /-- `FEED.SOX`, byte 0xF0 (R131). -/
  | sox
  /-- `FEED.SC1`, byte 0xF1 (R133). -/
  | sc1
  /-- `FEED.SC2`, byte 0xF2 (R134). -/
  | sc2
  /-- `FEED.SC3`, byte 0xF3 (R135). -/
  | sc3
  /-- `FEED.SC4`, byte 0xF4 (R136). -/
  | sc4
  /-- `FEED.SC5`, byte 0xF5 (R137). -/
  | sc5
  /-- `FEED.SC6`, byte 0xF6 (R138). -/
  | sc6
  /-- `FEED.EOX`, byte 0xF7 (R139). -/
  | eox
  /-- `FEED.RT0`, byte 0xF8 (R191). -/
  | rt0
  /-- `FEED.RT1`, byte 0xF9 (R192). -/
  | rt1
  /-- `FEED.RT2`, byte 0xFA (R193). -/
  | rt2
  /-- `FEED.RT3`, byte 0xFB (R194). -/
  | rt3
  /-- `FEED.RT4`, byte 0xFC (R195). -/
  | rt4
  /-- `FEED.RT5`, byte 0xFD (R196). -/
  | rt5
  /-- `FEED.RT6`, byte 0xFE (R197). -/
  | rt6
  /-- `FEED.RT7`, byte 0xFF (R198). -/
  | rt7
  /-- `RESET`, any operation word with bit 8 set; the other bits are ignored, so it has no operand (R61, R210). -/
  | reset
deriving DecidableEq, Repr

end Sys2Proof
end

