-- ==== Sys2Proof/WellFormed.lean ====
section
/-! DEFINITION. Which terms stand for an operation. The block has no illegal, reserved or hint encoding (R70): the
field widths of R60 are carried by the operands' types, so every `Instr` is well formed, and the one check with
something to refuse is on a number offered as an operation word. -/

namespace Sys2Proof

/-- Every operation with operands of the widths of R60 is well formed in every state (R2, R62, R70). -/
def Instr.wellFormed : Instr → Bool
  | .data _ => true
  | .noteOff _ => true
  | .noteOn _ => true
  | .polyPress _ => true
  | .cc _ => true
  | .progChg _ => true
  | .chanPress _ => true
  | .pitchBend _ => true
  | .sox => true
  | .sc1 => true
  | .sc2 => true
  | .sc3 => true
  | .sc4 => true
  | .sc5 => true
  | .sc6 => true
  | .eox => true
  | .rt0 => true
  | .rt1 => true
  | .rt2 => true
  | .rt3 => true
  | .rt4 => true
  | .rt5 => true
  | .rt6 => true
  | .rt7 => true
  | .reset => true

/-- An operation word has nine bits (R61): a number with a higher bit set is none. -/
def opWordFits (w : Nat) : Bool := w < 2 ^ 9

end Sys2Proof
end

