-- ==== Sys2Proof/Decode.lean ====
section
/-! DEFINITION. The decoder of the operation word, total on the 512 words (R61, R62); the encoder, written from the
encodings of R102 to R109, R131 to R139, R191 to R198 and R210; and the opcode table itself. -/

namespace Sys2Proof

/-- Bytes 0xF0..0xFF by their low nibble: bit 3 tells System Common from Real-Time (R60, R62). -/
def decodeSystem (c : Nibble) : Instr :=
  match c with
  | 0x0#4 => .sox
  | 0x1#4 => .sc1
  | 0x2#4 => .sc2
  | 0x3#4 => .sc3
  | 0x4#4 => .sc4
  | 0x5#4 => .sc5
  | 0x6#4 => .sc6
  | 0x7#4 => .eox
  | 0x8#4 => .rt0
  | 0x9#4 => .rt1
  | 0xA#4 => .rt2
  | 0xB#4 => .rt3
  | 0xC#4 => .rt4
  | 0xD#4 => .rt5
  | 0xE#4 => .rt6
  | _ => .rt7

/-- The class of a fed byte and its operand (R60, R62): by the top nibble, where 0x0..0x7 are the data bytes. -/
def decodeByte (b : Byte) : Instr :=
  match b.extractLsb' 4 4 with
  | 0x8#4 => .noteOff (b.extractLsb' 0 4)
  | 0x9#4 => .noteOn (b.extractLsb' 0 4)
  | 0xA#4 => .polyPress (b.extractLsb' 0 4)
  | 0xB#4 => .cc (b.extractLsb' 0 4)
  | 0xC#4 => .progChg (b.extractLsb' 0 4)
  | 0xD#4 => .chanPress (b.extractLsb' 0 4)
  | 0xE#4 => .pitchBend (b.extractLsb' 0 4)
  | 0xF#4 => decodeSystem (b.extractLsb' 0 4)
  | _ => .data (b.extractLsb' 0 7)

/-- The operation a word names (R61): with `w[8] = 1` it is `reset`, whatever the other bits (R70 case 3). -/
def decode (w : OpWord) : Instr :=
  if w.getLsbD 8 then .reset else decodeByte (w.extractLsb' 0 8)

/-- Why a number is no operation word. -/
inductive DecodeError where
  /-- A bit above bit 8 is set (R61 gives the word nine bits). -/
  | widerThanNineBits
deriving DecidableEq, Repr

/-- The decoder on any number: a word of nine bits decodes, anything wider is rejected by name. -/
def decodeNat (w : Nat) : Except DecodeError Instr :=
  if opWordFits w then .ok (decode (BitVec.ofNat 9 w)) else .error .widerThanNineBits

/-- The decoder as the host asks it. The block stores no operations (R50), so there is no byte layout: the table's
bit numbering is the word's own. -/
def decodeTableWord (_nbits w : Nat) : Option Instr :=
  match decodeNat w with
  | .ok i => some i
  | .error _ => none

/-- The operation word of an operation, the canonical one for `reset` (R61, R72). -/
def encode : Instr → OpWord
  | .data d => 0x000#9 ||| d.setWidth 9
  | .noteOff ch => 0x080#9 ||| ch.setWidth 9
  | .noteOn ch => 0x090#9 ||| ch.setWidth 9
  | .polyPress ch => 0x0A0#9 ||| ch.setWidth 9
  | .cc ch => 0x0B0#9 ||| ch.setWidth 9
  | .progChg ch => 0x0C0#9 ||| ch.setWidth 9
  | .chanPress ch => 0x0D0#9 ||| ch.setWidth 9
  | .pitchBend ch => 0x0E0#9 ||| ch.setWidth 9
  | .sox => 0x0F0#9
  | .sc1 => 0x0F1#9
  | .sc2 => 0x0F2#9
  | .sc3 => 0x0F3#9
  | .sc4 => 0x0F4#9
  | .sc5 => 0x0F5#9
  | .sc6 => 0x0F6#9
  | .eox => 0x0F7#9
  | .rt0 => 0x0F8#9
  | .rt1 => 0x0F9#9
  | .rt2 => 0x0FA#9
  | .rt3 => 0x0FB#9
  | .rt4 => 0x0FC#9
  | .rt5 => 0x0FD#9
  | .rt6 => 0x0FE#9
  | .rt7 => 0x0FF#9
  | .reset => 0x100#9

/-- `feed 0xNN` as an operation word, `0x0NN` (R72). -/
def feedWord (b : Byte) : OpWord := b.setWidth 9

/-- `reset` as an operation word (R72). -/
def resetWord : OpWord := 0x100#9

/-- The pseudo-operation `bytes b1 b2 …`: one `feed` each, in order (R72). -/
def bytesWords (bs : List Byte) : List OpWord := bs.map feedWord

/-- One row of the opcode table (R62): a word `w` is in the row when `w &&& mask = pattern`. -/
structure OpcodeRow where
  pattern : OpWord
  mask    : OpWord
deriving DecidableEq, Repr

/-- The row of R62 an operation stands in, its match and mask as spec/opcode_table.json has them. -/
def opcodeRow : Instr → OpcodeRow
  | .data _ => ⟨0x000, 0x180⟩
  | .noteOff _ => ⟨0x080, 0x1F0⟩
  | .noteOn _ => ⟨0x090, 0x1F0⟩
  | .polyPress _ => ⟨0x0A0, 0x1F0⟩
  | .cc _ => ⟨0x0B0, 0x1F0⟩
  | .progChg _ => ⟨0x0C0, 0x1F0⟩
  | .chanPress _ => ⟨0x0D0, 0x1F0⟩
  | .pitchBend _ => ⟨0x0E0, 0x1F0⟩
  | .sox => ⟨0x0F0, 0x1FF⟩
  | .sc1 => ⟨0x0F1, 0x1FF⟩
  | .sc2 => ⟨0x0F2, 0x1FF⟩
  | .sc3 => ⟨0x0F3, 0x1FF⟩
  | .sc4 => ⟨0x0F4, 0x1FF⟩
  | .sc5 => ⟨0x0F5, 0x1FF⟩
  | .sc6 => ⟨0x0F6, 0x1FF⟩
  | .eox => ⟨0x0F7, 0x1FF⟩
  | .rt0 => ⟨0x0F8, 0x1FF⟩
  | .rt1 => ⟨0x0F9, 0x1FF⟩
  | .rt2 => ⟨0x0FA, 0x1FF⟩
  | .rt3 => ⟨0x0FB, 0x1FF⟩
  | .rt4 => ⟨0x0FC, 0x1FF⟩
  | .rt5 => ⟨0x0FD, 0x1FF⟩
  | .rt6 => ⟨0x0FE, 0x1FF⟩
  | .rt7 => ⟨0x0FF, 0x1FF⟩
  | .reset => ⟨0x100, 0x100⟩

/-- All 25 rows of R62. -/
def opcodeTable : List OpcodeRow :=
  [Instr.data 0, .noteOff 0, .noteOn 0, .polyPress 0, .cc 0, .progChg 0, .chanPress 0, .pitchBend 0].map opcodeRow
    ++ [Instr.sox, .sc1, .sc2, .sc3, .sc4, .sc5, .sc6, .eox].map opcodeRow
    ++ [Instr.rt0, .rt1, .rt2, .rt3, .rt4, .rt5, .rt6, .rt7].map opcodeRow ++ [opcodeRow .reset]

/-- A word lies in a row of the table (R62). -/
def OpcodeRow.matchesWord (r : OpcodeRow) (w : OpWord) : Bool := w &&& r.mask == r.pattern

end Sys2Proof
end

