-- ==== Sys2Proof/Config.lean ====
section
/-! DEFINITION. What is fixed when an instance of the block is built (R4, R5, R241) and the values the spec leaves
open. A value marked free has no body: nothing can be proved of it. -/

namespace Sys2Proof

/-- `SYSEX_STATUS_POLICY` (R5): what a status byte other than 0xF7 does when it arrives during SysEx. -/
inductive SysExStatusPolicy where
  /-- The byte is stored in the payload (R162, R164). -/
  | legacy
  /-- The SysEx message is dropped and the byte starts a new message (R165). -/
  | abortOnStatus
deriving DecidableEq, Repr

/-- The two implementation parameters (00_scope.md section 4). No operation changes them (R241). -/
structure BuildParams where
  /-- `C`, the SysEx buffer capacity; 0 is admitted (R4). -/
  capacity : Nat
  policy   : SysExStatusPolicy
deriving DecidableEq, Repr

/-- The value of `C` for this hardware: OPEN (R4, 92 D4, 93 U1), so it has no body. Log entry 1. -/
opaque Config.capacity : Nat

/-- This hardware takes `Legacy` (R5, 92 D3). Log entry 2. -/
def Config.policy : SysExStatusPolicy := .legacy

/-- The parameters of the instance that `State.reset` describes. -/
def Config.build : BuildParams := ⟨Config.capacity, Config.policy⟩

/-- FREE VALUE: what the channel lines of a build read beside a Real-Time event, by the number of results returned so
far (93 U9). Log entry 16. -/
opaque Config.freeRealTimeChannel : Nat → Channel

/-- FREE VALUE: what the data1 lines of a build read beside a one-data-byte event (93 U5). Log entry 16. -/
opaque Config.freeData1 : Nat → Data7

/-- FREE VALUE: what a build's payload read port gives at an index where nothing is guaranteed, by the number of
results returned so far and the index (R245, 93 U7). Log entry 15. -/
opaque Config.freePortByte : Nat → Nat → Byte

end Sys2Proof
end

