-- ==== Sys2Proof/Machine/Event.lean ====
section
/-! DEFINITION. What the block returns to the host: the `Event` of R67 and the result of one whole operation (R1, R3).
The names of System Common and Real-Time codes are labels only (R65, R66). -/

namespace Sys2Proof.Machine

/-- The seven Channel Voice kinds, `CVKind` (R63). -/
inductive CVKind where
  | noteOff
  | noteOn
  | polyPressure
  | controlChange
  | programChange
  | channelPressure
  | pitchBend
deriving DecidableEq, Repr

/-- A decoded message (R67). System Common and Real-Time events have no channel (92 D8). -/
inductive Event where
  | channelVoice (kind : CVKind) (channel : Channel) (data0 : Data7) (data1 : Option Data7)
  | systemCommon (code : Code) (payload : Option (List Byte))
  | realTime (code : Code)
deriving DecidableEq, Repr

/-- What one operation returned: `feed` returns an `Option Event` (R3), `reset` returns nothing (R1, 92 D24). -/
inductive Response where
  | fed (event : Option Event)
  | resetDone
deriving DecidableEq, Repr

/-- The names the source gives to System Common codes (R65). Labels. -/
inductive SystemCommonName where
  | systemExclusive
  | timeCodeQuarterFrame
  | songPosition
  | songSelect
  | tuneRequest
  | systemExclusiveEnd
deriving DecidableEq, Repr

/-- The names the source gives to Real-Time codes (R66). Labels; `midiReset` is the MIDI message, not `reset` (R198). -/
inductive RealTimeName where
  | clock
  | start
  | continueSong
  | stop
  | activeSensing
  | midiReset
deriving DecidableEq, Repr

/-- The three classes of an input byte (R80). -/
inductive ByteClass where
  | realTime
  | status
  | data
deriving DecidableEq, Repr

end Sys2Proof.Machine
end

