-- ==== Sys2Proof/Machine/State.lean ====
section
/-! DEFINITION. The state of one instance of the block (10_state.md), plain data, and its reset value (R23, R240). -/

namespace Sys2Proof.Machine

/-- The assembly phase (R11). -/
inductive Phase where
  | idle
  | awaitingData0
  | awaitingData1
  | inSysEx
deriving DecidableEq, Repr

/-- The contents of the SysEx buffer (R17, R40): the entries that hold a byte, by index, indices strictly rising. An
index that is not listed holds `none`, no value (R18). -/
abbrev Memory := List Host.Cell

/-- The registers and the buffer: all the state the block has (R10). -/
structure Parser where
  /-- R11. -/
  phase    : Phase
  /-- Running status (R12). -/
  rs       : Option (CVKind × Channel)
  /-- R13. -/
  pendKind : Option CVKind
  /-- R14. -/
  pendChan : Option Channel
  /-- R15. -/
  pendD0   : Option Data7
  /-- Number of payload bytes collected (R16). -/
  sxLen    : Nat
  /-- R17, R40. -/
  sxBuf    : Memory
deriving DecidableEq, Repr

/-- One instance with its interface to the host. `build` is fixed when the instance is built (R241; log entry 3).
`inputs` are the operations the host has issued that have not run yet, the next first (R10, R48; log entry 4).
`returned` is what the operations run so far gave the host, oldest first: the block's only observable output (R24);
no rule reads it (log entry 5). -/
structure State where
  build    : BuildParams
  parser   : Parser
  inputs   : List OpWord
  returned : List Response
deriving DecidableEq, Repr

/-- Why a step can stop. None of these is behaviour of the hardware, which raises no exception (R220): each guards a
read or a write that no reachable state performs (R22, R43). -/
inductive Fault where
  /-- Raised by a data byte in `AwaitingData0` or `AwaitingData1` with no pending kind (R22, INV1). Safe: the model
  stops where no hardware run goes. -/
  | noPendingKind
  /-- Raised by a data byte in `AwaitingData0` or `AwaitingData1` with no pending channel (R22, INV1). Safe. -/
  | noPendingChannel
  /-- Raised by a data byte in `AwaitingData1` with no first data byte (R22, INV2). Safe. -/
  | noPendingData0
  /-- Raised by 0xF7 in SysEx when an entry below `sx_len` holds no value (R22, INV6). Safe. -/
  | noBufferByte
  /-- Raised by a buffer access at an index at or above `C`, which does not exist (R40, R43). Safe. -/
  | noBufferEntry
deriving DecidableEq, Repr

/-- Why an instruction is refused. -/
inductive Refusal where
  /-- Raised by `exec` alone, for an instruction the model gives no meaning yet; no arm uses it now. Safe. -/
  | notModelled (mnemonic : String)
deriving DecidableEq, Repr

/-- The registers after reset, at power-on and after construction (R23, R240). -/
def Parser.reset : Parser where
  phase    := .idle
  rs       := none
  pendKind := none
  pendChan := none
  pendD0   := none
  sxLen    := 0
  sxBuf    := []

/-- An instance just built: nothing issued, nothing returned (R240, R242). -/
def State.reset : State where
  build    := Config.build
  parser   := Parser.reset
  inputs   := []
  returned := []

end Sys2Proof.Machine
end

