-- ==== Sys2Proof/Machine/Operands.lean ====
section
/-! DEFINITION. The operand forms: every operand is an unsigned bit field of the input byte (R69), and each byte of
R60's formats is put together from its fields in one place. -/

namespace Sys2Proof.Machine

/-- `d = b[6:0]` of a data byte (R69). -/
def dataOf (b : Byte) : Data7 := (b &&& 0x7F#8).extractLsb' 0 7

/-- `ch = b[3:0]` (R69). -/
def channelOf (b : Byte) : Channel := b.extractLsb' 0 4

/-- `f = b[7:4]` (R69). -/
def familyOf (b : Byte) : Nibble := b.extractLsb' 4 4

/-- `c = b[2:0]` of a System Common or Real-Time byte (R65, R66, R69). -/
def codeOf (b : Byte) : Code := b.extractLsb' 0 3

/-- `class(b)` (R80): by value alone. -/
def classOf (b : Byte) : ByteClass :=
  if 0xF8#8 ≤ b then .realTime else if b.getLsbD 7 then .status else .data

/-- The kind a family nibble selects (R63), `none` for the nibbles of no Channel Voice byte. PRESUMED for 0xA..0xE:
the spec marks the assignment general knowledge (93 G1). Log entry 8. -/
def kindOf (f : Nibble) : Option CVKind :=
  match f with
  | 0x8#4 => some .noteOff
  | 0x9#4 => some .noteOn
  | 0xA#4 => some .polyPressure
  | 0xB#4 => some .controlChange
  | 0xC#4 => some .programChange
  | 0xD#4 => some .channelPressure
  | 0xE#4 => some .pitchBend
  | _ => none

/-- The family nibble of a kind (R63). -/
def familyOfKind : CVKind → Nibble
  | .noteOff => 0x8
  | .noteOn => 0x9
  | .polyPressure => 0xA
  | .controlChange => 0xB
  | .programChange => 0xC
  | .channelPressure => 0xD
  | .pitchBend => 0xE

/-- The Channel Voice status byte of a kind and channel (format CV of R60). -/
def cvByte (k : CVKind) (ch : Channel) : Byte := familyOfKind k ++ ch

/-- The System Common byte of a code (format SC of R60). -/
def scByte (c : Code) : Byte := 0x1E#5 ++ c

/-- The Real-Time byte of a code (format RT of R60). -/
def rtByte (c : Code) : Byte := 0x1F#5 ++ c

/-- The byte a data value arrives in (format D of R60). -/
def dataByteOf (d : Data7) : Byte := d.setWidth 8

/-- The Channel Voice operation of a kind and channel: `FEED.NOTEOFF` to `FEED.PITCHBEND` (R102 to R108). -/
def cvInstr (k : CVKind) (ch : Channel) : Instr :=
  match k with
  | .noteOff => .noteOff ch
  | .noteOn => .noteOn ch
  | .polyPressure => .polyPress ch
  | .controlChange => .cc ch
  | .programChange => .progChg ch
  | .channelPressure => .chanPress ch
  | .pitchBend => .pitchBend ch

/-- The byte an operation feeds, 0 for `reset`, which feeds none (R61). -/
def byteFed (i : Instr) : Byte := (encode i).extractLsb' 0 8

/-- The label of a System Common code (R65); 4 and 5 have none. PRESUMED (93 G2). No rule depends on it. Log entry 9. -/
def systemCommonName (c : Code) : Option SystemCommonName :=
  match c with
  | 0#3 => some .systemExclusive
  | 1#3 => some .timeCodeQuarterFrame
  | 2#3 => some .songPosition
  | 3#3 => some .songSelect
  | 6#3 => some .tuneRequest
  | 7#3 => some .systemExclusiveEnd
  | _ => none

/-- The label of a Real-Time code (R66); 1 and 5 have none. PRESUMED (93 G3). No rule depends on it. Log entry 9. -/
def realTimeName (c : Code) : Option RealTimeName :=
  match c with
  | 0#3 => some .clock
  | 2#3 => some .start
  | 3#3 => some .continueSong
  | 4#3 => some .stop
  | 6#3 => some .activeSensing
  | 7#3 => some .midiReset
  | _ => none

/-- An informative bit encoding of `phase` (R26). No rule depends on it. Log entry 17. -/
def phaseBits : Phase → BitVec 2
  | .idle => 0b00
  | .awaitingData0 => 0b01
  | .awaitingData1 => 0b10
  | .inSysEx => 0b11

end Sys2Proof.Machine
end

