-- ==== Sys2Proof/Machine/Flags.lean ====
section
/-! DEFINITION. The block has no flags: "flags written" is none for every operation (41_channel_voice.md). What stands
in their place are the block's comparisons (R116): the data count of a kind, a final data byte of zero, the buffer
being full. -/

namespace Sys2Proof.Machine

/-- `dataCount(k)` (R64). -/
def dataCount : CVKind → Nat
  | .programChange => 1
  | .channelPressure => 1
  | .noteOff => 2
  | .noteOn => 2
  | .polyPressure => 2
  | .controlChange => 2
  | .pitchBend => 2

/-- `normalize(k, last)`: a NoteOn whose final data byte is 0 is emitted as NoteOff (R114). -/
def normalizeKind (k : CVKind) (last : Data7) : CVKind :=
  if k = .noteOn ∧ last = 0#7 then .noteOff else k

/-- A payload byte still fits (R162, R163). -/
def hasRoom (s : State) : Bool := s.parser.sxLen < s.build.capacity

end Sys2Proof.Machine
end

