-- ==== Sys2Proof/Machine/Ops.lean ====
section
/-! DEFINITION. The shared operations: the SysEx buffer (20_memory.md), the results returned to the host, the clearing
of pending (R18, R82), the host's operations in order (R48), and the phase test every meaning begins with.

There is no exception to take and none to return from: the block has no exception, interrupt, trap, saved state, mode
or handler (R220, R223, R225, R226). -/

namespace Sys2Proof.Machine

/-- What a meaning answers. -/
abbrev Result := Host.Outcome State Fault Refusal

/-- `sx_buf[i]`: the byte of entry `i`, `none` where no byte has been written since the last clear (R17). -/
def Memory.read (i : Nat) : Memory → Option Byte
  | [] => none
  | (j, v) :: m => if i = j then some v else Memory.read i m

/-- Entry `i` becomes `v`, every other entry stays. -/
def Memory.write (i : Nat) (v : Byte) : Memory → Memory
  | [] => [(i, v)]
  | (j, w) :: m =>
    if i < j then (i, v) :: (j, w) :: m
    else if i = j then (i, v) :: m
    else (j, w) :: Memory.write i v m

/-- The canonical form: indices strictly rising. No entry equals what an unlisted index holds, which is no byte. -/
abbrev Memory.wf (m : Memory) : Prop := m.Pairwise (fun a b => a.1 < b.1)

/-- `MemRead(i, 1)` (R42): an index at or above `C` does not exist, and an entry with no value is never read by the
hardware (R22). -/
def memRead (cap i : Nat) (m : Memory) : Except Fault Byte :=
  if i < cap then
    match m.read i with
    | some v => .ok v
    | none => .error .noBufferByte
  else .error .noBufferEntry

/-- `MemWrite(i, 1, v)` (R41, R43). -/
def memWrite (cap i : Nat) (v : Byte) (m : Memory) : Except Fault Memory :=
  if i < cap then .ok (m.write i v) else .error .noBufferEntry

/-- `[ MemRead(i, 1) | i = start .. start+n-1 ]`, in that order (R42, R44). -/
def memReadRange (cap : Nat) (m : Memory) (start : Nat) : Nat → Except Fault (List Byte)
  | 0 => .ok []
  | n + 1 =>
    match memRead cap start m with
    | .error f => .error f
    | .ok v =>
      match memReadRange cap m (start + 1) n with
      | .error f => .error f
      | .ok vs => .ok (v :: vs)

/-- `clearPending()` (R18). -/
def Parser.clearPending (p : Parser) : Parser :=
  { p with pendKind := none, pendChan := none, pendD0 := none, sxLen := 0, sxBuf := [] }

/-- `clearPending(); phase <- Idle`, with `rs` kept: the abort of R82 and R165 and the end of every message
(R115, R132, R161, R163). -/
def Parser.abort (p : Parser) : Parser :=
  { p.clearPending with phase := .idle }

/-- The instance with its registers replaced. -/
def State.withParser (s : State) (p : Parser) : State := { s with parser := p }

/-- `clearPending(); phase <- Idle` on the instance. -/
def State.abort (s : State) : State := s.withParser s.parser.abort

/-- The operation ends and returns `r` (R1, R3). -/
def State.respond (s : State) (r : Response) : State := { s with returned := s.returned ++ [r] }

/-- `emit e`: the `feed` ends with event `e`. -/
def emit (e : Event) (s : State) : Result := .next (s.respond (.fed (some e)))

/-- `noEvent`: the `feed` ends with no event, which is normal operation (R222). -/
def noEvent (s : State) : Result := .next (s.respond (.fed none))

/-- `reset` ends and returns nothing (R1, 92 D24). -/
def returnNothing (s : State) : Result := .next (s.respond .resetDone)

/-- The event a result carries. -/
def Response.event? : Response → Option Event
  | .fed e => e
  | .resetDone => none

/-- The sequence of events returned so far, the block's observable output (R24). -/
def State.events (s : State) : List Event := s.returned.filterMap Response.event?

/-- The host issues one more operation, to run before those already waiting. -/
def State.issueFirst (w : OpWord) (s : State) : State := { s with inputs := w :: s.inputs }

/-- The next operation in the host's order, taken from those waiting (R48). -/
def fetch (s : State) : Option (OpWord × State) :=
  match s.inputs with
  | [] => none
  | w :: ws => some (w, { s with inputs := ws })

/-- With no operation issued nothing changes: only `feed` and `reset` change state (R19), and the state persists
between operations (R230). DEDUCED, log entry 4. -/
def awaitOperation (s : State) : Result := .next s

end Sys2Proof.Machine
end

