-- ==== Sys2Proof/Machine/SysEx.lean ====
section
/-! DEFINITION. The SysEx actions (43_sysex.md), shared by every operation below 0xF8 while `phase = InSysEx`. -/

namespace Sys2Proof.Machine

/-- `startSysEx()` (R131): the byte 0xF0 itself is not stored. -/
def startSysEx (s : State) : Result :=
  noEvent (s.withParser { s.parser with sxLen := 0, phase := .inSysEx })

/-- `append(b)` (R162): all 8 bits of `b` join the payload. -/
def appendByte (b : Byte) (s : State) : Result :=
  match memWrite s.build.capacity s.parser.sxLen b s.parser.sxBuf with
  | .ok m => noEvent (s.withParser { s.parser with sxLen := s.parser.sxLen + 1, sxBuf := m })
  | .error f => .fault f

/-- `overflow()` (R163): the message is dropped and the byte discarded, whatever its class (90 C4, C6). -/
def overflow (s : State) : Result := noEvent s.abort

/-- A byte other than 0xF7 that is payload: appended while `sx_len < C`, else it overflows (R160, the length test). In
a state no run reaches, with `sx_len` above `C`, it overflows too, as R84 and R160 write the last branch. -/
def sysExByte (b : Byte) (s : State) : Result :=
  if hasRoom s then appendByte b s else overflow s

/-- `endSysEx()` (R161): the payload is delivered by value (R25). -/
def endSysEx (s : State) : Result :=
  match memReadRange s.build.capacity s.parser.sxBuf 0 s.parser.sxLen with
  | .ok p => emit (.systemCommon 0#3 (some p)) s.abort
  | .error f => .fault f

end Sys2Proof.Machine
end

