-- ==== Sys2Proof/Machine/ChannelVoice.lean ====
section
/-! DEFINITION. Channel Voice status bytes and data bytes (41_channel_voice.md). -/

namespace Sys2Proof.Machine

/-- `startCV(k, ch)` (R101). -/
def startCV (k : CVKind) (ch : Channel) (s : State) : Result :=
  noEvent (s.withParser
    { s.parser with
      rs := some (k, ch), pendKind := some k, pendChan := some ch, pendD0 := none, phase := .awaitingData0 })

/-- `cvStatus(b)` with `b` the status byte of kind `k` and channel `ch` (R100): outside SysEx it aborts the message in
progress and starts a new one (R82, R85); inside, the policy decides (R164, R165). -/
def cvStatus (k : CVKind) (ch : Channel) (s : State) : Result :=
  match s.parser.phase with
  | .inSysEx =>
    match s.build.policy with
    | .legacy => sysExByte (cvByte k ch) s
    | .abortOnStatus => startCV k ch s.abort
  | .idle => startCV k ch s.abort
  | .awaitingData0 => startCV k ch s.abort
  | .awaitingData1 => startCV k ch s.abort

/-- `completeCV(k, ch, d0, d1opt, last)` (R115): the emitted kind is normalised (R114), `rs` keeps its kind (92 D6). -/
def completeCV (k : CVKind) (ch : Channel) (d0 : Data7) (d1 : Option Data7) (last : Data7) (s : State) : Result :=
  emit (.channelVoice (normalizeKind k last) ch d0 d1) s.abort

/-- `idleData(b)` (R110, R111): dropped with no running status, else the first data byte of a new message. -/
def idleData (d : Data7) (s : State) : Result :=
  match s.parser.rs with
  | none => noEvent s
  | some (k, ch) =>
    if dataCount k = 1 then completeCV k ch d none d s
    else
      noEvent (s.withParser
        { s.parser with pendKind := some k, pendChan := some ch, pendD0 := some d, phase := .awaitingData1 })

/-- `dataAD0(b)` (R112). -/
def dataAD0 (d : Data7) (s : State) : Result :=
  match s.parser.pendKind, s.parser.pendChan with
  | none, _ => .fault .noPendingKind
  | some _, none => .fault .noPendingChannel
  | some k, some ch =>
    if dataCount k = 1 then completeCV k ch d none d s
    else noEvent (s.withParser { s.parser with pendD0 := some d, phase := .awaitingData1 })

/-- `dataAD1(b)` (R113). -/
def dataAD1 (d : Data7) (s : State) : Result :=
  match s.parser.pendKind, s.parser.pendChan, s.parser.pendD0 with
  | none, _, _ => .fault .noPendingKind
  | some _, none, _ => .fault .noPendingChannel
  | some _, some _, none => .fault .noPendingData0
  | some k, some ch, some d0 => completeCV k ch d0 (some d) d s

/-- `FEED.DATA` (R109): no abort pre-step, one dispatch on `phase`. -/
def execData (d : Data7) (s : State) : Result :=
  match s.parser.phase with
  | .idle => idleData d s
  | .awaitingData0 => dataAD0 d s
  | .awaitingData1 => dataAD1 d s
  | .inSysEx => sysExByte (dataByteOf d) s

/-- `FEED.NOTEOFF` (R102). -/
def execNoteOff (ch : Channel) (s : State) : Result := cvStatus .noteOff ch s

/-- `FEED.NOTEON` (R103). -/
def execNoteOn (ch : Channel) (s : State) : Result := cvStatus .noteOn ch s

/-- `FEED.POLYPRESS` (R104). -/
def execPolyPress (ch : Channel) (s : State) : Result := cvStatus .polyPressure ch s

/-- `FEED.CC` (R105): controller numbers have no meaning here. -/
def execCc (ch : Channel) (s : State) : Result := cvStatus .controlChange ch s

/-- `FEED.PROGCHG` (R106). -/
def execProgChg (ch : Channel) (s : State) : Result := cvStatus .programChange ch s

/-- `FEED.CHANPRESS` (R107). -/
def execChanPress (ch : Channel) (s : State) : Result := cvStatus .channelPressure ch s

/-- `FEED.PITCHBEND` (R108): the two data bytes are not combined. -/
def execPitchBend (ch : Channel) (s : State) : Result := cvStatus .pitchBend ch s

end Sys2Proof.Machine
end

