-- ==== Sys2Proof/Machine/Control.lean ====
section
/-! DEFINITION. The `reset` operation (45_control.md). -/

namespace Sys2Proof.Machine

/-- `RESET` (R210): `phase <- Idle; rs <- none; clearPending()`. -/
def execReset (s : State) : Result :=
  returnNothing (s.withParser ({ s.parser with phase := .idle, rs := none } : Parser).clearPending)

end Sys2Proof.Machine
end

