-- ==== Sys2Proof/Machine/RealTime.lean ====
section
/-! DEFINITION. System Real-Time bytes (44_realtime.md): one event, no change of state, in every phase and under either
policy. -/

namespace Sys2Proof.Machine

/-- `realTime(b)` with `c = b & 0x07` (R190). -/
def realTime (c : Code) (s : State) : Result := emit (.realTime c) s

/-- `FEED.RT0`, 0xF8 (R191). -/
def execRt0 (s : State) : Result := realTime 0#3 s

/-- `FEED.RT1`, 0xF9 (R192). -/
def execRt1 (s : State) : Result := realTime 1#3 s

/-- `FEED.RT2`, 0xFA (R193). -/
def execRt2 (s : State) : Result := realTime 2#3 s

/-- `FEED.RT3`, 0xFB (R194). -/
def execRt3 (s : State) : Result := realTime 3#3 s

/-- `FEED.RT4`, 0xFC (R195). -/
def execRt4 (s : State) : Result := realTime 4#3 s

/-- `FEED.RT5`, 0xFD (R196). -/
def execRt5 (s : State) : Result := realTime 5#3 s

/-- `FEED.RT6`, 0xFE (R197). -/
def execRt6 (s : State) : Result := realTime 6#3 s

/-- `FEED.RT7`, 0xFF (R198): the MIDI Reset message, not the block's `reset`. -/
def execRt7 (s : State) : Result := realTime 7#3 s

end Sys2Proof.Machine
end

