-- ==== Sys2Proof/Machine/SystemCommon.lean ====
section
/-! DEFINITION. System Common status bytes (42_system_common.md). None of them writes `rs` (R130, 90 C1). -/

namespace Sys2Proof.Machine

/-- `emitSC(c)` (R132): a one-byte message; data bytes that follow are not collected (R140). -/
def emitSC (c : Code) (s : State) : Result := emit (.systemCommon c none) s.abort

/-- `scIdle(b)` with `c` the code of `b` (R130). -/
def scIdle (c : Code) (s : State) : Result := if c = 0#3 then startSysEx s else emitSC c s

/-- `scStatus(b)` with `c` the code of `b` (R130). Inside SysEx the 0xF7 test comes before the policy (R166). -/
def scStatus (c : Code) (s : State) : Result :=
  match s.parser.phase with
  | .inSysEx =>
    if c = 7#3 then endSysEx s
    else
      match s.build.policy with
      | .legacy => sysExByte (scByte c) s
      | .abortOnStatus => scIdle c s.abort
  | .idle => scIdle c s.abort
  | .awaitingData0 => scIdle c s.abort
  | .awaitingData1 => scIdle c s.abort

/-- `FEED.SOX`, 0xF0 (R131). -/
def execSox (s : State) : Result := scStatus 0#3 s

/-- `FEED.SC1`, 0xF1 (R133). -/
def execSc1 (s : State) : Result := scStatus 1#3 s

/-- `FEED.SC2`, 0xF2 (R134). -/
def execSc2 (s : State) : Result := scStatus 2#3 s

/-- `FEED.SC3`, 0xF3 (R135). -/
def execSc3 (s : State) : Result := scStatus 3#3 s

/-- `FEED.SC4`, 0xF4 (R136): MIDI-undefined, an ordinary message here (R70). -/
def execSc4 (s : State) : Result := scStatus 4#3 s

/-- `FEED.SC5`, 0xF5 (R137): MIDI-undefined, an ordinary message here (R70). -/
def execSc5 (s : State) : Result := scStatus 5#3 s

/-- `FEED.SC6`, 0xF6 (R138). -/
def execSc6 (s : State) : Result := scStatus 6#3 s

/-- `FEED.EOX`, 0xF7 (R139): ends a SysEx message, and outside SysEx is a message of its own. -/
def execEox (s : State) : Result := scStatus 7#3 s

end Sys2Proof.Machine
end

