-- ==== Sys2Proof/Machine/Dispatch.lean ====
section
/-! DEFINITION. The meaning of every operation (R62): one arm per row of the opcode table. -/

namespace Sys2Proof.Machine

def exec (i : Instr) (s : State) : Host.Outcome State Fault Refusal :=
  match i with
  | .data d => Sys2Proof.Machine.execData d s
  | .noteOff ch => Sys2Proof.Machine.execNoteOff ch s
  | .noteOn ch => Sys2Proof.Machine.execNoteOn ch s
  | .polyPress ch => Sys2Proof.Machine.execPolyPress ch s
  | .cc ch => Sys2Proof.Machine.execCc ch s
  | .progChg ch => Sys2Proof.Machine.execProgChg ch s
  | .chanPress ch => Sys2Proof.Machine.execChanPress ch s
  | .pitchBend ch => Sys2Proof.Machine.execPitchBend ch s
  | .sox => Sys2Proof.Machine.execSox s
  | .sc1 => Sys2Proof.Machine.execSc1 s
  | .sc2 => Sys2Proof.Machine.execSc2 s
  | .sc3 => Sys2Proof.Machine.execSc3 s
  | .sc4 => Sys2Proof.Machine.execSc4 s
  | .sc5 => Sys2Proof.Machine.execSc5 s
  | .sc6 => Sys2Proof.Machine.execSc6 s
  | .eox => Sys2Proof.Machine.execEox s
  | .rt0 => Sys2Proof.Machine.execRt0 s
  | .rt1 => Sys2Proof.Machine.execRt1 s
  | .rt2 => Sys2Proof.Machine.execRt2 s
  | .rt3 => Sys2Proof.Machine.execRt3 s
  | .rt4 => Sys2Proof.Machine.execRt4 s
  | .rt5 => Sys2Proof.Machine.execRt5 s
  | .rt6 => Sys2Proof.Machine.execRt6 s
  | .rt7 => Sys2Proof.Machine.execRt7 s
  | .reset => Sys2Proof.Machine.execReset s

end Sys2Proof.Machine
end

