-- ==== Sys2Proof/Machine/Step.lean ====
section
/-! DEFINITION. One step: the block runs the next operation the host issued, whole (R46, R48). -/

namespace Sys2Proof.Machine

/-- One step of the instance. With no operation waiting it stays as it is (log entry 4). -/
def step (s : State) : Host.Outcome State Fault Refusal :=
  match fetch s with
  | none => awaitOperation s
  | some (w, s') => exec (decode w) s'

/-- The host issues operation word `w` to run next (log entry 4). -/
def State.withFetchWord (s : State) (_nbits w : Nat) : State := s.issueFirst (BitVec.ofNat 9 w)

end Sys2Proof.Machine
end

