-- ==== Sys2Proof/Machine/Classifier.lean ====
section
/-! DEFINITION. `feed(b)` as the one function of R84: classify, abort pre-step, one dispatch on the resulting phase.
It is a second reading of the same behaviour, written from 40_classifier.md alone; `exec` does not use it, and that the
two agree is a statement of its own. -/

namespace Sys2Proof.Machine

/-- Step 2 of R84: the abort pre-step (R82), and inside SysEx the policy abort (R165). -/
def preStep (b : Byte) (s : State) : State :=
  if classOf b = .status ∧ s.parser.phase ≠ .inSysEx then s.abort
  else if classOf b = .status ∧ s.parser.phase = .inSysEx ∧ b ≠ 0xF7#8 ∧ s.build.policy = .abortOnStatus then s.abort
  else s

/-- The Idle arm of R84's dispatch. `kindOf` has a value exactly for a status byte up to 0xEF. -/
def idleDispatch (b : Byte) (s : State) : Result :=
  if classOf b = .status then
    match kindOf (familyOf b) with
    | some k => startCV k (channelOf b) s
    | none => if b = 0xF0#8 then startSysEx s else emitSC (codeOf b) s
  else idleData (dataOf b) s

/-- Step 3 of R84: one dispatch (R83). -/
def dispatch (b : Byte) (s : State) : Result :=
  match s.parser.phase with
  | .idle => idleDispatch b s
  | .awaitingData0 => dataAD0 (dataOf b) s
  | .awaitingData1 => dataAD1 (dataOf b) s
  | .inSysEx =>
    if b = 0xF7#8 then endSysEx s
    else if s.parser.sxLen < s.build.capacity then appendByte b s
    else overflow s

/-- `feed(b)` (R84). -/
def feed (b : Byte) (s : State) : Result :=
  if classOf b = .realTime then realTime (codeOf b) s else dispatch b (preStep b s)

end Sys2Proof.Machine
end

