-- ==== Sys2Proof/Machine/Instances.lean ====
section
/-! DEFINITION. Several instances side by side (R229): each has its own registers, buffer and build parameters, and an
operation on one is a step of that one alone. -/

namespace Sys2Proof.Machine

/-- Instance `k` runs its next operation, every other instance stays. There is no instance where `k` is out of range,
and then nothing runs. -/
def stepInstance (k : Nat) (sys : List State) : Host.Outcome (List State) Fault Refusal :=
  match sys[k]? with
  | none => .next sys
  | some s =>
    match step s with
    | .next t => .next (sys.set k t)
    | .fault f => .fault f
    | .refused r => .refused r

end Sys2Proof.Machine
end

