-- ==== Sys2Proof/Machine/Ports.lean ====
section
/-! DEFINITION. Flat wires a hardware build may present beside the abstract result (R67, R68, R245). No rule depends on
them and no step reads them: they are functions of the state, and where the spec guarantees nothing they give a free
value of Config. -/

namespace Sys2Proof.Machine

/-- The result of the last operation, if one has run. -/
def State.lastReturned (s : State) : Option Response := s.returned.getLast?

/-- The event of the last operation: the host must take it before its next operation (R244). -/
def State.lastEvent (s : State) : Option Event := s.lastReturned.bind Response.event?

/-- The "event valid" indication (R68). -/
def State.eventValid (s : State) : Bool := s.lastEvent.isSome

/-- A flat channel output: 0 for System Common, anything for Real-Time (R67, 92 D8, 93 U9). -/
def channelLines (n : Nat) : Event → Channel
  | .channelVoice _ ch _ _ => ch
  | .systemCommon _ _ => 0
  | .realTime _ => Config.freeRealTimeChannel n

/-- Flat data1 lines: anything where the event has no second data byte (R67, 92 D7, 93 U5). -/
def data1Lines (n : Nat) : Event → Data7
  | .channelVoice _ _ _ (some d) => d
  | .channelVoice _ _ _ none => Config.freeData1 n
  | .systemCommon _ _ => Config.freeData1 n
  | .realTime _ => Config.freeData1 n

/-- A payload read port: it gives the payload until the host's next operation, anything after that and beyond the
payload's end (R245, 92 D21, 93 U7). -/
def payloadPort (s : State) (i : Nat) : Byte :=
  match s.lastEvent with
  | some (.systemCommon _ (some p)) => (p[i]?).getD (Config.freePortByte s.returned.length i)
  | _ => Config.freePortByte s.returned.length i

end Sys2Proof.Machine
end

