-- ==== Sys2Proof/Safety.lean ====
section
/-! DEFINITION. What holds in every reachable state (R21) and of every returned event (R67). -/

namespace Sys2Proof.Machine

/-- INV1 to INV7 of R21, for a parser built with parameters `b`, and the canonical form of the buffer's list. -/
structure Inv (b : BuildParams) (p : Parser) : Prop where
  /-- INV1. -/
  assembling : p.phase = .awaitingData0 ∨ p.phase = .awaitingData1 →
    ∃ k ch, p.pendKind = some k ∧ p.pendChan = some ch ∧ p.rs = some (k, ch)
  /-- INV2. -/
  secondDue : p.phase = .awaitingData1 →
    (∃ d, p.pendD0 = some d) ∧ ∀ k, p.pendKind = some k → dataCount k = 2
  /-- INV3. -/
  firstDue : p.phase = .awaitingData0 → p.pendD0 = none
  /-- INV4. -/
  idleClear : p.phase = .idle → p.pendKind = none ∧ p.pendChan = none ∧ p.pendD0 = none
  /-- INV5. -/
  bufferClear : p.phase ≠ .inSysEx → p.sxLen = 0 ∧ ∀ i, p.sxBuf.read i = none
  /-- INV6. -/
  bufferFilled : p.phase = .inSysEx →
    p.sxLen ≤ b.capacity ∧ (∀ i, i < p.sxLen → ∃ v, p.sxBuf.read i = some v) ∧
      (∀ i, p.sxLen ≤ i → p.sxBuf.read i = none) ∧
      p.pendKind = none ∧ p.pendChan = none ∧ p.pendD0 = none
  /-- INV7. -/
  bufferBytes : ∀ i v, p.sxBuf.read i = some v →
    v ≤ 0xF6#8 ∧ (b.policy = .abortOnStatus → v ≤ 0x7F#8)
  /-- The form of the list, the model's own. -/
  bufferForm : p.sxBuf.wf

/-- The invariant of an instance. -/
def State.Inv (s : State) : Prop := Machine.Inv s.build s.parser

/-- The well-formedness conditions of R67, for a buffer of capacity `cap`. The ranges of channel, data bytes and code
are those of their types. -/
def Event.wf (cap : Nat) : Event → Bool
  | .channelVoice k _ _ d1 => d1.isSome == (dataCount k == 2)
  | .systemCommon c none => c != 0#3
  | .systemCommon c (some p) => c == 0#3 && p.length ≤ cap
  | .realTime _ => true

/-- An event of the Real-Time class (R67). -/
def Event.isRealTime : Event → Bool
  | .channelVoice _ _ _ _ => false
  | .systemCommon _ _ => false
  | .realTime _ => true

/-- The operation word of a Real-Time byte, 0x0F8..0x0FF (R62). -/
def isRealTimeWord (w : OpWord) : Bool := w &&& 0x1F8#9 == 0x0F8#9

/-- The instance with the host's operations `ws` waiting, and no others. -/
def State.load (ws : List OpWord) (s : State) : State := { s with inputs := ws }

/-- The instance runs `n` operations, in the host's order (R48). -/
def run (n : Nat) (s : State) : Result := Host.Core.run Sys2Proof.core n s

/-- A run of `n` steps that answers a next state: no fault and no refusal on the way. -/
def SafeRun (n : Nat) (s : State) : Prop := ∃ t, run n s = .next t

end Sys2Proof.Machine
end

