-- ==== Sys2Proof/Certificates/Slice0/Obligations.lean ====
section
/-! DEFINITION. The statements about the block, from the numbered rules of spec/. -/

open Sys2Proof Sys2Proof.Machine

/-! ## Reset, steps, encoding -/

/-- R23: the reset state, register by register; an instance just built has it (R240) and `reset` produces it (R210). -/
def Obligations.ResetStateIsTheTable : Prop :=
  (State.reset.parser.phase = .idle ∧ State.reset.parser.rs = none ∧ State.reset.parser.pendKind = none ∧
    State.reset.parser.pendChan = none ∧ State.reset.parser.pendD0 = none ∧ State.reset.parser.sxLen = 0 ∧
    ∀ i, State.reset.parser.sxBuf.read i = none) ∧
  ∀ s : State, ∃ t, exec .reset s = .next t ∧ t.parser = State.reset.parser

/-- R21 at reset, for every value of the two parameters. -/
def Obligations.ResetStateMeetsTheInvariants : Prop :=
  State.reset.Inv ∧ ∀ b : BuildParams, ({ State.reset with build := b } : State).Inv

/-- R48: the operations run one at a time in the host's order; a step is the meaning of the word that is next. -/
def Obligations.StepRunsTheNextOperation : Prop :=
  ∀ (s : State) (w : OpWord) (ws : List OpWord), s.inputs = w :: ws →
    step s = exec (decode w) { s with inputs := ws }

/-- R19, R230 read for a step with no operation issued: the model's choice (log entry 4). -/
def Obligations.StepWithNoOperationKeepsTheState : Prop :=
  ∀ s : State, s.inputs = [] → step s = .next s

/-- The words of 95_test_vectors.md 2.7 and one of each further family, written out from R62. -/
def Obligations.WordsOfTheSpecDecode : Prop :=
  decode 0b000000000#9 = .data 0x00 ∧ decode 0b001111111#9 = .data 0x7F ∧ decode 0b010010011#9 = .noteOn 3 ∧
  decode 0b011101111#9 = .pitchBend 15 ∧ decode 0b011110000#9 = .sox ∧ decode 0b011110101#9 = .sc5 ∧
  decode 0b011110111#9 = .eox ∧ decode 0b011111000#9 = .rt0 ∧ decode 0b011111111#9 = .rt7 ∧
  decode 0b100000000#9 = .reset ∧ decode 0b110100101#9 = .reset

/-- R61: the word's two operations, and each word in exactly one row of R62, the row of the operation it decodes to. -/
def Obligations.EveryWordNamesExactlyOneRow : Prop :=
  ∀ w : OpWord,
    opcodeTable.filter (·.matchesWord w) = [opcodeRow (decode w)] ∧
    (w.getLsbD 8 = true → decode w = .reset) ∧
    (w.getLsbD 8 = false → decode w = decodeByte (w.extractLsb' 0 8)) ∧
    encode .reset = 0x100#9

/-- Decoding the word of an operation gives it back, at every value of its operand (R61, R102 to R109). -/
def Obligations.DecodeOfEncodeIsTheOperation : Prop :=
  ∀ i : Instr, i.wellFormed = true → decode (encode i) = i

/-- Encoding what a word decodes to gives the word back, the canonical 0x100 for every word of `reset` (R61). -/
def Obligations.EncodeOfDecodeIsTheCanonicalWord : Prop :=
  ∀ w : OpWord, encode (decode w) = if w.getLsbD 8 then 0x100#9 else w

/-- A number is decoded when it has nine bits (R61) and refused by name when it is wider (log entry 7). -/
def Obligations.OnlyNineBitNumbersDecode : Prop :=
  ∀ n w : Nat,
    (w < 512 → decodeTableWord n w = some (decode (BitVec.ofNat 9 w)) ∧ decodeNat w = .ok (decode (BitVec.ofNat 9 w))) ∧
    (512 ≤ w → decodeTableWord n w = none ∧ decodeNat w = .error .widerThanNineBits)

/-- R80: the class of a byte by its value. -/
def Obligations.ByteClassesAreTheRanges : Prop :=
  ∀ b : Byte,
    (classOf b = .realTime ↔ 0xF8#8 ≤ b) ∧
    (classOf b = .status ↔ 0x80#8 ≤ b ∧ b ≤ 0xF7#8) ∧
    (classOf b = .data ↔ b ≤ 0x7F#8)

/-- R64, by kind and by family nibble (R63). -/
def Obligations.DataCountByKindAndNibble : Prop :=
  (∀ k : CVKind, dataCount k = if k = .programChange ∨ k = .channelPressure then 1 else 2) ∧
  (∀ k : CVKind, kindOf (familyOfKind k) = some k) ∧
  (∀ (f : Nibble) (k : CVKind), kindOf f = some k →
    (f = 0xC#4 ∨ f = 0xD#4 → dataCount k = 1) ∧
    (f = 0x8#4 ∨ f = 0x9#4 ∨ f = 0xA#4 ∨ f = 0xB#4 ∨ f = 0xE#4 → dataCount k = 2))

/-! ## Channel Voice status bytes and data bytes -/

/-- R101 with the pre-step of R82, for `FEED.NOTEOFF`, `FEED.NOTEON`, `FEED.POLYPRESS`, `FEED.CC`, `FEED.PROGCHG`,
`FEED.CHANPRESS` and `FEED.PITCHBEND` outside SysEx. -/
def Obligations.ChannelVoiceStatusStartsAMessage : Prop :=
  ∀ (ch : Channel) (s : State), s.parser.phase ≠ .inSysEx →
    ∀ (i : Instr) (k : CVKind),
      (i, k) ∈ [(Instr.noteOff ch, CVKind.noteOff), (.noteOn ch, .noteOn), (.polyPress ch, .polyPressure),
        (.cc ch, .controlChange), (.progChg ch, .programChange), (.chanPress ch, .channelPressure),
        (.pitchBend ch, .pitchBend)] →
      exec i s = .next { s with
        parser := { phase := .awaitingData0, rs := some (k, ch), pendKind := some k, pendChan := some ch,
                    pendD0 := none, sxLen := 0, sxBuf := [] }
        returned := s.returned ++ [.fed none] }

/-- R110: `FEED.DATA` in `Idle` with no running status. -/
def Obligations.OrphanDataByteIsDropped : Prop :=
  ∀ (d : Data7) (s : State), s.parser.phase = .idle → s.parser.rs = none →
    exec (.data d) s = .next { s with returned := s.returned ++ [.fed none] }

/-- R111: `FEED.DATA` in `Idle` with running status: a whole message of a one-data-byte kind, else its first byte. -/
def Obligations.DataByteUnderRunningStatus : Prop :=
  ∀ (d : Data7) (k : CVKind) (ch : Channel) (s : State), s.parser.phase = .idle → s.parser.rs = some (k, ch) →
    (dataCount k = 1 →
      exec (.data d) s = .next { s with
        parser := { phase := .idle, rs := some (k, ch), pendKind := none, pendChan := none, pendD0 := none,
                    sxLen := 0, sxBuf := [] }
        returned := s.returned ++ [.fed (some (.channelVoice k ch d none))] }) ∧
    (dataCount k = 2 →
      exec (.data d) s = .next { s with
        parser := { s.parser with
          pendKind := some k, pendChan := some ch, pendD0 := some d, phase := .awaitingData1 }
        returned := s.returned ++ [.fed none] })

/-- R112: `FEED.DATA` in `AwaitingData0`. -/
def Obligations.FirstDataByteAfterStatus : Prop :=
  ∀ (d : Data7) (k : CVKind) (ch : Channel) (s : State), s.parser.phase = .awaitingData0 →
    s.parser.pendKind = some k → s.parser.pendChan = some ch →
    (dataCount k = 1 →
      exec (.data d) s = .next { s with
        parser := { phase := .idle, rs := s.parser.rs, pendKind := none, pendChan := none, pendD0 := none,
                    sxLen := 0, sxBuf := [] }
        returned := s.returned ++ [.fed (some (.channelVoice k ch d none))] }) ∧
    (dataCount k = 2 →
      exec (.data d) s = .next { s with
        parser := { s.parser with pendD0 := some d, phase := .awaitingData1 }
        returned := s.returned ++ [.fed none] })

/-- R113 with R114 and R115: `FEED.DATA` in `AwaitingData1`. A NoteOn whose final byte is 0 is emitted as NoteOff, any
other kind as it is, and `rs` is not changed; that it keeps NoteOn after such a NoteOff is the spec's decision 92 D6
(log entry 11). -/
def Obligations.SecondDataByteCompletesTheMessage : Prop :=
  ∀ (d d0 : Data7) (k : CVKind) (ch : Channel) (s : State), s.parser.phase = .awaitingData1 →
    s.parser.pendKind = some k → s.parser.pendChan = some ch → s.parser.pendD0 = some d0 →
    ∃ k' : CVKind, (k = .noteOn ∧ d = 0#7 → k' = .noteOff) ∧ (¬ (k = .noteOn ∧ d = 0#7) → k' = k) ∧
      exec (.data d) s = .next { s with
        parser := { phase := .idle, rs := s.parser.rs, pendKind := none, pendChan := none, pendD0 := none,
                    sxLen := 0, sxBuf := [] }
        returned := s.returned ++ [.fed (some (.channelVoice k' ch d0 (some d)))] }

/-- R22: a rule that would read `none` stops with a fault. No state that meets the invariants is concerned. -/
def Obligations.ReadingNoValueFaults : Prop :=
  ∀ (d : Data7) (s : State),
    (s.parser.phase = .awaitingData0 ∨ s.parser.phase = .awaitingData1 → s.parser.pendKind = none →
      exec (.data d) s = .fault .noPendingKind) ∧
    (s.parser.phase = .awaitingData0 ∨ s.parser.phase = .awaitingData1 → s.parser.pendKind ≠ none →
      s.parser.pendChan = none → exec (.data d) s = .fault .noPendingChannel) ∧
    (s.parser.phase = .awaitingData1 → s.parser.pendKind ≠ none → s.parser.pendChan ≠ none →
      s.parser.pendD0 = none → exec (.data d) s = .fault .noPendingData0) ∧
    (s.parser.phase = .inSysEx → s.parser.sxLen ≤ s.build.capacity →
      (∃ i, i < s.parser.sxLen ∧ s.parser.sxBuf.read i = none) → exec .eox s = .fault .noBufferByte)

/-! ## System Common and SysEx -/

/-- R131: `FEED.SOX` outside SysEx, after the pre-step of R82. -/
def Obligations.SysExStartOutsideSysEx : Prop :=
  ∀ s : State, s.parser.phase ≠ .inSysEx →
    exec .sox s = .next { s with
      parser := { phase := .inSysEx, rs := s.parser.rs, pendKind := none, pendChan := none, pendD0 := none,
                  sxLen := 0, sxBuf := [] }
      returned := s.returned ++ [.fed none] }

/-- R132: `FEED.SC1` to `FEED.SC6` and `FEED.EOX` outside SysEx. -/
def Obligations.SystemCommonOutsideSysExIsEmitted : Prop :=
  ∀ s : State, s.parser.phase ≠ .inSysEx →
    ∀ (i : Instr) (c : Code),
      (i, c) ∈ [(Instr.sc1, 1#3), (.sc2, 2#3), (.sc3, 3#3), (.sc4, 4#3), (.sc5, 5#3), (.sc6, 6#3), (.eox, 7#3)] →
      exec i s = .next { s with
        parser := { phase := .idle, rs := s.parser.rs, pendKind := none, pendChan := none, pendD0 := none,
                    sxLen := 0, sxBuf := [] }
        returned := s.returned ++ [.fed (some (.systemCommon c none))] }

/-- R161: `FEED.EOX` in SysEx gives the payload in arrival order. -/
def Obligations.SysExEndDeliversTheBuffer : Prop :=
  ∀ s : State, s.parser.phase = .inSysEx → s.parser.sxLen ≤ s.build.capacity →
    (∀ i, i < s.parser.sxLen → ∃ v, s.parser.sxBuf.read i = some v) →
    ∃ p : List Byte, p.length = s.parser.sxLen ∧ (∀ i, i < s.parser.sxLen → p[i]? = s.parser.sxBuf.read i) ∧
      exec .eox s = .next { s with
        parser := { phase := .idle, rs := s.parser.rs, pendKind := none, pendChan := none, pendD0 := none,
                    sxLen := 0, sxBuf := [] }
        returned := s.returned ++ [.fed (some (.systemCommon 0#3 (some p)))] }

/-- R162: a payload byte (any data byte, and under Legacy a status byte but 0xF7) with room is stored unmasked at entry
`sx_len`; every other entry and register stays. -/
def Obligations.PayloadByteIsStoredVerbatim : Prop :=
  ∀ (b : Byte) (s : State), b ≤ 0xF6#8 → (b ≤ 0x7F#8 ∨ s.build.policy = .legacy) →
    s.parser.phase = .inSysEx → s.parser.sxLen < s.build.capacity →
    ∃ m : Memory, m.read s.parser.sxLen = some b ∧
      (∀ i, i ≠ s.parser.sxLen → m.read i = s.parser.sxBuf.read i) ∧
      exec (decodeByte b) s = .next { s with
        parser := { s.parser with sxLen := s.parser.sxLen + 1, sxBuf := m }
        returned := s.returned ++ [.fed none] }

/-- R163: a payload byte that finds the buffer full drops the message and is discarded. -/
def Obligations.PayloadByteAtCapacityDropsTheMessage : Prop :=
  ∀ (b : Byte) (s : State), b ≤ 0xF6#8 → (b ≤ 0x7F#8 ∨ s.build.policy = .legacy) →
    s.parser.phase = .inSysEx → s.parser.sxLen = s.build.capacity →
    exec (decodeByte b) s = .next { s with
      parser := { phase := .idle, rs := s.parser.rs, pendKind := none, pendChan := none, pendD0 := none,
                  sxLen := 0, sxBuf := [] }
      returned := s.returned ++ [.fed none] }

/-- R165: under `AbortOnStatus` a status byte but 0xF7 drops the SysEx message, full or not, and starts its own. -/
def Obligations.PolicyAbortRestartsWithTheByte : Prop :=
  ∀ s : State, s.parser.phase = .inSysEx → s.build.policy = .abortOnStatus →
    (∀ (k : CVKind) (ch : Channel), exec (decodeByte (cvByte k ch)) s = .next { s with
      parser := { phase := .awaitingData0, rs := some (k, ch), pendKind := some k, pendChan := some ch,
                  pendD0 := none, sxLen := 0, sxBuf := [] }
      returned := s.returned ++ [.fed none] }) ∧
    exec .sox s = .next { s with
      parser := { phase := .inSysEx, rs := s.parser.rs, pendKind := none, pendChan := none, pendD0 := none,
                  sxLen := 0, sxBuf := [] }
      returned := s.returned ++ [.fed none] } ∧
    (∀ (i : Instr) (c : Code),
      (i, c) ∈ [(Instr.sc1, 1#3), (.sc2, 2#3), (.sc3, 3#3), (.sc4, 4#3), (.sc5, 5#3), (.sc6, 6#3)] →
      exec i s = .next { s with
        parser := { phase := .idle, rs := s.parser.rs, pendKind := none, pendChan := none, pendD0 := none,
                    sxLen := 0, sxBuf := [] }
        returned := s.returned ++ [.fed (some (.systemCommon c none))] })

/-! ## Real-Time bytes and reset -/

/-- R190: `FEED.RT0` to `FEED.RT7`, in any phase and under either policy. -/
def Obligations.RealTimeByteEmitsAndChangesNothing : Prop :=
  ∀ (s : State) (i : Instr) (c : Code),
    (i, c) ∈ [(Instr.rt0, 0#3), (.rt1, 1#3), (.rt2, 2#3), (.rt3, 3#3), (.rt4, 4#3), (.rt5, 5#3), (.rt6, 6#3),
      (.rt7, 7#3)] →
    exec i s = .next { s with returned := s.returned ++ [.fed (some (.realTime c))] }

/-- R210: `RESET`, in every state; nothing is emitted. -/
def Obligations.ResetDiscardsEverything : Prop :=
  ∀ s : State, exec .reset s = .next { s with
    parser := { phase := .idle, rs := none, pendKind := none, pendChan := none, pendD0 := none, sxLen := 0,
                sxBuf := [] }
    returned := s.returned ++ [.resetDone] }

/-! ## Whole-machine rules -/

/-- R84: what the operations do byte by byte is the one `feed` function of the classifier. -/
def Obligations.OperationsAreTheFeedFunction : Prop :=
  ∀ (b : Byte) (s : State), exec (decodeByte b) s = feed b s

/-- R21: every step keeps INV1 to INV7 and the form of the buffer, from every state that has them. -/
def Obligations.EveryStepKeepsTheInvariants : Prop :=
  ∀ s t : State, s.Inv → step s = .next t → t.Inv

/-- R21: every state reached from the reset state by any operations, for any `C` and either policy. -/
def Obligations.ReachableStatesMeetTheInvariants : Prop :=
  ∀ (b : BuildParams) (ws : List OpWord),
    ∃ t, run ws.length ({ State.reset with build := b, inputs := ws } : State) = .next t ∧ t.inputs = [] ∧ t.Inv

/-- R220: every operation in every state (that meets the invariants) leads to a next state. -/
def Obligations.EveryOperationCompletes : Prop :=
  ∀ (i : Instr) (s : State), s.Inv → ∃ t, exec i s = .next t

/-- R231, R220: no run stops, however long. -/
def Obligations.EveryRunIsSafe : Prop :=
  ∀ (n : Nat) (s : State), s.Inv → SafeRun n s

/-- R3: each `feed` returns one `Option Event`. R1: `reset` returns nothing, the spec's decision 92 D24 (log entry 5).
Earlier results stand. -/
def Obligations.EachOperationReturnsOnce : Prop :=
  ∀ (i : Instr) (s t : State), exec i s = .next t →
    (i = .reset → t.returned = s.returned ++ [.resetDone]) ∧
    (i ≠ .reset → ∃ e : Option Event, t.returned = s.returned ++ [.fed e])

/-- R241: neither `reset` nor any `feed` changes the parameters. -/
def Obligations.BuildParametersNeverChange : Prop :=
  ∀ (i : Instr) (s t : State), exec i s = .next t → t.build = s.build

/-- R12: only a Channel Voice status byte (taken as one, so not one stored as payload under Legacy) and `reset` write
running status. -/
def Obligations.OnlyChannelVoiceAndResetWriteRunningStatus : Prop :=
  ∀ (i : Instr) (s t : State), exec i s = .next t →
    (∀ k ch, i = cvInstr k ch → ¬ (s.parser.phase = .inSysEx ∧ s.build.policy = .legacy) →
      t.parser.rs = some (k, ch)) ∧
    (∀ k ch, i = cvInstr k ch → s.parser.phase = .inSysEx ∧ s.build.policy = .legacy →
      t.parser.rs = s.parser.rs) ∧
    (i = .reset → t.parser.rs = none) ∧
    ((∀ k ch, i ≠ cvInstr k ch) → i ≠ .reset → t.parser.rs = s.parser.rs)

/-- R41, R43: an operation leaves the buffer as it was, clears it, or writes the fed byte once, at entry `sx_len`
below `C`, while in SysEx. -/
def Obligations.AtMostOneBufferWrite : Prop :=
  ∀ (i : Instr) (s t : State), exec i s = .next t →
    (∀ n, t.parser.sxBuf.read n = s.parser.sxBuf.read n) ∨
    (∀ n, t.parser.sxBuf.read n = none) ∨
    (s.parser.phase = .inSysEx ∧ s.parser.sxLen < s.build.capacity ∧ i ≠ .reset ∧
      t.parser.sxLen = s.parser.sxLen + 1 ∧ t.parser.sxBuf.read s.parser.sxLen = some (byteFed i) ∧
      ∀ n, n ≠ s.parser.sxLen → t.parser.sxBuf.read n = s.parser.sxBuf.read n)

/-- R168: `sx_len` is set to 0, kept, or raised by one while below `C`, so it never exceeds `C`. -/
def Obligations.PayloadLengthStaysWithinCapacity : Prop :=
  ∀ (i : Instr) (s t : State), exec i s = .next t →
    (t.parser.sxLen = 0 ∨ t.parser.sxLen = s.parser.sxLen ∨
      (s.parser.phase = .inSysEx ∧ s.parser.sxLen < s.build.capacity ∧ t.parser.sxLen = s.parser.sxLen + 1)) ∧
    (s.parser.sxLen ≤ s.build.capacity → t.parser.sxLen ≤ t.build.capacity)

/-- R67: an emitted event is well formed. -/
def Obligations.EmittedEventsAreWellFormed : Prop :=
  ∀ (i : Instr) (s t : State) (e : Event), s.Inv → exec i s = .next t →
    t.returned = s.returned ++ [.fed (some e)] → e.wf s.build.capacity = true

/-- R67, R190: which operation an event of each kind comes from. -/
def Obligations.EventsComeFromTheirBytes : Prop :=
  ∀ (i : Instr) (s t : State) (e : Event), exec i s = .next t → t.returned = s.returned ++ [.fed (some e)] →
    (∀ k ch d0 d1, e = .channelVoice k ch d0 d1 →
      s.parser.phase ≠ .inSysEx ∧ ∃ d, i = .data d ∧ (d1 = none → d = d0) ∧ (∀ x, d1 = some x → d = x)) ∧
    (∀ p, e = .systemCommon 0#3 p → s.parser.phase = .inSysEx ∧ i = .eox) ∧
    (∀ c p, e = .systemCommon c p → c ≠ 0#3 → p = none ∧ i = decodeByte (scByte c)) ∧
    (∀ c, e = .realTime c → i = decodeByte (rtByte c) ∧ t.parser = s.parser)

/-- R82, R85: a status byte outside SysEx does the same whatever message was in progress. -/
def Obligations.StatusByteForgetsTheMessageInProgress : Prop :=
  ∀ (b : Byte) (s s' : State), 0x80#8 ≤ b → b ≤ 0xF7#8 → s.parser.phase ≠ .inSysEx → s'.parser.phase ≠ .inSysEx →
    s.build = s'.build → s.parser.rs = s'.parser.rs → s.inputs = s'.inputs → s.returned = s'.returned →
    exec (decodeByte b) s = exec (decodeByte b) s'

/-- R131, R160 to R165: only 0xF0 enters SysEx; under Legacy only 0xF7, `reset` and overflow leave it. -/
def Obligations.EnteringAndLeavingSysEx : Prop :=
  ∀ (i : Instr) (s t : State), exec i s = .next t →
    (s.parser.phase ≠ .inSysEx → t.parser.phase = .inSysEx → i = .sox) ∧
    (s.parser.phase = .inSysEx → s.build.policy = .legacy → t.parser.phase ≠ .inSysEx →
      i = .eox ∨ i = .reset ∨ s.build.capacity ≤ s.parser.sxLen)

/-- R229: operations on different instances do not interact and may run in either order. -/
def Obligations.InstancesDoNotInteract : Prop :=
  ∀ (i j : Nat) (sys sys₁ sys₂ : List State), i ≠ j → stepInstance i sys = .next sys₁ →
    stepInstance j sys₁ = .next sys₂ →
    (∀ k, k ≠ i → sys₁[k]? = sys[k]?) ∧
    ∃ sys₁', stepInstance j sys = .next sys₁' ∧ stepInstance i sys₁' = .next sys₂

/-! ## Streams -/

/-- R161, R162, R44 with R190: 0xF0, payload bytes with Real-Time bytes anywhere among them, 0xF7, from any state
outside SysEx. -/
def Obligations.SysExStreamDeliversItsPayload : Prop :=
  ∀ (q : List Byte) (s : State) (rest : List OpWord), s.parser.phase ≠ .inSysEx →
    (∀ b, b ∈ q → 0xF8#8 ≤ b ∨ (b ≤ 0xF6#8 ∧ (b ≤ 0x7F#8 ∨ s.build.policy = .legacy))) →
    (q.filter (fun b => decide (b ≤ 0xF6#8))).length ≤ s.build.capacity →
    s.inputs = bytesWords (0xF0#8 :: q ++ [0xF7#8]) ++ rest →
    ∃ t, run (q.length + 2) s = .next t ∧ t.build = s.build ∧ t.inputs = rest ∧
      t.parser = { phase := .idle, rs := s.parser.rs, pendKind := none, pendChan := none, pendD0 := none, sxLen := 0,
                   sxBuf := [] } ∧
      t.events = s.events ++ (q.filter (fun b => decide (0xF8#8 ≤ b))).map (fun b => .realTime (codeOf b)) ++
        [.systemCommon 0#3 (some (q.filter (fun b => decide (b ≤ 0xF6#8))))]

/-- R163, R169: payload bytes up to exactly one more than fits give no event at all, and the 0xF7 right after them is a
message of its own (R139, 90 C8). Under Legacy a status byte that overflows is discarded too (90 C4; log entry 12), and
0xF7 leaves `rs` (92 D5; log entry 10). A payload byte after the one that overflows takes the Idle rules (R167) and is
outside this statement. -/
def Obligations.OversizedSysExYieldsNoExclusiveEvent : Prop :=
  ∀ (q : List Byte) (s : State) (rest : List OpWord), s.parser.phase = .inSysEx →
    s.parser.sxLen ≤ s.build.capacity → s.parser.sxLen + q.length = s.build.capacity + 1 →
    (∀ b, b ∈ q → b ≤ 0xF6#8 ∧ (b ≤ 0x7F#8 ∨ s.build.policy = .legacy)) →
    s.inputs = bytesWords (q ++ [0xF7#8]) ++ rest →
    run (q.length + 1) s = .next { s with
      inputs := rest
      parser := { phase := .idle, rs := s.parser.rs, pendKind := none, pendChan := none, pendD0 := none, sxLen := 0,
                  sxBuf := [] }
      returned := s.returned ++ List.replicate q.length (.fed none) ++ [.fed (some (.systemCommon 7#3 none))] }

/-- R190, R246: taking the Real-Time bytes out of any sequence of operations changes neither the registers nor any
other event. -/
def Obligations.RealTimeBytesAreTransparent : Prop :=
  ∀ (ws : List OpWord) (s t : State), run ws.length (s.load ws) = .next t →
    ∃ t', run (ws.filter (fun w => !isRealTimeWord w)).length (s.load (ws.filter (fun w => !isRealTimeWord w))) =
        .next t' ∧
      t'.parser = t.parser ∧ t'.build = t.build ∧
      t'.events.filter (fun e => !e.isRealTime) = t.events.filter (fun e => !e.isRealTime)

/-- R111, R113, R114: under running status every further pair of data bytes is a message of a two-data-byte kind, and
every further data byte one of a one-data-byte kind; running status survives them all. -/
def Obligations.RunningStatusDecodesEveryMessage : Prop :=
  ∀ (k : CVKind) (ch : Channel) (s : State) (rest : List OpWord), s.parser.phase = .idle →
    s.parser.rs = some (k, ch) →
    (∀ ps : List (Data7 × Data7), dataCount k = 2 →
      s.inputs = bytesWords (ps.flatMap (fun p => [dataByteOf p.1, dataByteOf p.2])) ++ rest →
      ∃ t, run (2 * ps.length) s = .next t ∧ t.inputs = rest ∧ t.parser.phase = .idle ∧
        t.parser.rs = some (k, ch) ∧
        t.events = s.events ++ ps.map (fun p =>
          .channelVoice (if k = .noteOn ∧ p.2 = 0#7 then .noteOff else k) ch p.1 (some p.2))) ∧
    (∀ ds : List Data7, dataCount k = 1 → s.inputs = bytesWords (ds.map dataByteOf) ++ rest →
      ∃ t, run ds.length s = .next t ∧ t.inputs = rest ∧ t.parser.phase = .idle ∧ t.parser.rs = some (k, ch) ∧
        t.events = s.events ++ ds.map (fun d => .channelVoice k ch d none))

/-- R140: data bytes after a System Common byte are not its own. With no running status any number of them is dropped;
under running status of a two-data-byte kind two of them are a message of it, since a System Common byte leaves `rs`, the
spec's decision 92 D5 (log entry 10), and so does a velocity-0 NoteOn, 92 D6 (log entry 11). -/
def Obligations.DataAfterSystemCommonIsNotCollected : Prop :=
  ∀ (c : Code) (s : State) (ds : List Data7) (rest : List OpWord), c ≠ 0#3 → s.parser.phase ≠ .inSysEx →
    s.inputs = bytesWords (scByte c :: ds.map dataByteOf) ++ rest →
    (s.parser.rs = none →
      ∃ t, run (ds.length + 1) s = .next t ∧ t.inputs = rest ∧ t.parser = Parser.reset ∧
        t.events = s.events ++ [.systemCommon c none]) ∧
    (∀ k ch d0 d1, s.parser.rs = some (k, ch) → dataCount k = 2 → ds = [d0, d1] →
      ∃ t, run 3 s = .next t ∧ t.inputs = rest ∧ t.parser.rs = some (k, ch) ∧
        t.events = s.events ++ [.systemCommon c none,
          .channelVoice (if k = .noteOn ∧ d1 = 0#7 then .noteOff else k) ch d0 (some d1)])

/-! ## Wires of a build -/

/-- R245, 92 D21: a payload read port shows the whole payload until the host's next operation. -/
def Obligations.PayloadPortShowsThePayload : Prop :=
  ∀ s : State, s.Inv → s.parser.phase = .inSysEx →
    ∃ t, exec .eox s = .next t ∧ t.eventValid = true ∧
      ∀ i, i < s.parser.sxLen → some (payloadPort t i) = s.parser.sxBuf.read i

/-- R67, 92 D8: beside a System Common event the flat channel output reads 0, and the event is marked valid (R68). -/
def Obligations.SystemCommonDrivesChannelZero : Prop :=
  ∀ (c : Code) (s : State), c ≠ 0#3 → s.parser.phase ≠ .inSysEx →
    ∃ t e, exec (decodeByte (scByte c)) s = .next t ∧ t.lastEvent = some e ∧ t.eventValid = true ∧
      ∀ n, channelLines n e = 0#4
end

