-- ==== Sys2Proof/Laws/Memory.lean ====
section
/-! SUPPORT. The SysEx buffer: what a read gives after a write, that a write keeps the canonical form, and what reading
a range gives. -/

namespace Sys2Proof.Machine

@[simp] theorem memory_read_nil (i : Nat) : Memory.read i [] = none := rfl

/-- A read after a write to the same entry gives the byte written. -/
@[simp] theorem read_write_same (i : Nat) (v : Byte) (m : Memory) : (m.write i v).read i = some v := by
  induction m with
  | nil => simp [Memory.write, Memory.read]
  | cons c m ih =>
    obtain ⟨j, w⟩ := c
    unfold Memory.write
    split
    · simp [Memory.read]
    · split
      · simp [Memory.read]
      · rename_i hne
        simpa [Memory.read, hne] using ih

/-- A write leaves every other entry as it was. -/
theorem read_write_other {i j : Nat} (h : j ≠ i) (v : Byte) (m : Memory) :
    (m.write i v).read j = m.read j := by
  induction m with
  | nil => simp [Memory.write, Memory.read, h]
  | cons c m ih =>
    obtain ⟨k, w⟩ := c
    unfold Memory.write
    split
    · simp [Memory.read, h]
    · split
      · rename_i hik
        subst hik
        simp [Memory.read, h]
      · simp only [Memory.read]
        split
        · rfl
        · exact ih

/-- Every cell of a buffer after a write is the written one or one that was there. -/
theorem mem_write {i : Nat} {v : Byte} {m : Memory} {c : Host.Cell} (h : c ∈ m.write i v) :
    c = (i, v) ∨ c ∈ m := by
  induction m with
  | nil => simpa [Memory.write] using h
  | cons d m ih =>
    obtain ⟨k, w⟩ := d
    unfold Memory.write at h
    split at h
    · simpa using h
    · split at h
      · rcases List.mem_cons.1 h with h | h
        · exact .inl h
        · exact .inr (List.mem_cons_of_mem _ h)
      · rcases List.mem_cons.1 h with h | h
        · exact .inr (h ▸ List.mem_cons_self)
        · exact (ih h).imp id (List.mem_cons_of_mem _)

/-- A write keeps the canonical form. -/
theorem write_wf {m : Memory} (hm : m.wf) (i : Nat) (v : Byte) : (m.write i v).wf := by
  induction m with
  | nil => simp [Memory.write]
  | cons c m ih =>
    obtain ⟨k, w⟩ := c
    obtain ⟨hk, hm'⟩ := List.pairwise_cons.1 hm
    unfold Memory.write
    split
    · rename_i hik
      refine List.pairwise_cons.2 ⟨fun d hd => ?_, hm⟩
      rcases List.mem_cons.1 hd with rfl | hd
      · exact hik
      · exact Nat.lt_trans hik (hk d hd)
    · split
      · rename_i hik
        subst hik
        exact List.pairwise_cons.2 ⟨fun d hd => hk d hd, hm'⟩
      · refine List.pairwise_cons.2 ⟨fun d hd => ?_, ih hm'⟩
        rcases mem_write hd with rfl | hd
        · simp only
          omega
        · exact hk d hd

/-- The cleared buffer has the canonical form (R18). -/
theorem empty_wf : Memory.wf [] := List.Pairwise.nil

/-- `memWrite` succeeds exactly below the capacity (R43). -/
theorem memWrite_of_lt {cap i : Nat} (h : i < cap) (v : Byte) (m : Memory) :
    memWrite cap i v m = .ok (m.write i v) := if_pos h

/-- What a write that succeeds did. -/
theorem memWrite_ok {cap i : Nat} {v : Byte} {m m' : Memory} (h : memWrite cap i v m = .ok m') :
    i < cap ∧ m' = m.write i v := by
  unfold memWrite at h
  split at h
  · exact ⟨‹_›, by cases h; rfl⟩
  · cases h

/-- A read that succeeds gives the entry's byte. -/
theorem memRead_ok {cap i : Nat} {m : Memory} {v : Byte} (h : memRead cap i m = .ok v) :
    i < cap ∧ m.read i = some v := by
  unfold memRead at h
  split at h
  · split at h
    · cases h
      exact ⟨‹_›, ‹_›⟩
    · cases h
  · cases h

/-- A read of an entry that holds a byte succeeds. -/
theorem memRead_of_some {cap i : Nat} {m : Memory} {v : Byte} (hi : i < cap) (h : m.read i = some v) :
    memRead cap i m = .ok v := by
  simp [memRead, hi, h]

/-- A range whose entries all hold bytes reads as their list, in index order (R42, R44). -/
theorem memReadRange_of_some {cap : Nat} {m : Memory} (n start : Nat) (hcap : start + n ≤ cap)
    (h : ∀ i, start ≤ i → i < start + n → ∃ v, m.read i = some v) :
    ∃ vs, memReadRange cap m start n = .ok vs ∧ vs.length = n ∧
      ∀ i, i < n → vs[i]? = m.read (start + i) := by
  induction n generalizing start with
  | zero => exact ⟨[], rfl, rfl, fun i hi => absurd hi (Nat.not_lt_zero i)⟩
  | succ n ih =>
    obtain ⟨v, hv⟩ := h start (Nat.le_refl _) (by omega)
    obtain ⟨vs, hvs, hlen, hget⟩ := ih (start + 1) (by omega) (fun i h1 h2 => h i (by omega) (by omega))
    refine ⟨v :: vs, ?_, by simp [hlen], fun i hi => ?_⟩
    · simp [memReadRange, memRead_of_some (show start < cap by omega) hv, hvs]
    · cases i with
      | zero => simp [hv]
      | succ i =>
        rw [List.getElem?_cons_succ, hget i (by omega)]
        congr 1
        omega

/-- What a range read that succeeds read. -/
theorem memReadRange_ok {cap : Nat} {m : Memory} {n start : Nat} {vs : List Byte}
    (h : memReadRange cap m start n = .ok vs) :
    vs.length = n ∧ ∀ i, i < n → vs[i]? = m.read (start + i) := by
  induction n generalizing start vs with
  | zero =>
    cases h
    exact ⟨rfl, fun i hi => absurd hi (Nat.not_lt_zero i)⟩
  | succ n ih =>
    unfold memReadRange at h
    split at h
    · cases h
    · rename_i v hv
      split at h
      · cases h
      · rename_i ws hws
        cases h
        obtain ⟨hlen, hget⟩ := ih hws
        refine ⟨by simp [hlen], fun i hi => ?_⟩
        cases i with
        | zero => simp [(memRead_ok hv).2]
        | succ i =>
          rw [List.getElem?_cons_succ, hget i (by omega)]
          congr 1
          omega

/-- A range with an entry that holds no value stops on it (R22). -/
theorem memReadRange_of_none {cap : Nat} {m : Memory} (n start : Nat) (hcap : start + n ≤ cap)
    (h : ∃ i, start ≤ i ∧ i < start + n ∧ m.read i = none) :
    memReadRange cap m start n = .error .noBufferByte := by
  induction n generalizing start with
  | zero =>
    obtain ⟨i, h1, h2, _⟩ := h
    omega
  | succ n ih =>
    have hs : start < cap := by omega
    cases hr : m.read start with
    | none => simp [memReadRange, memRead, hs, hr]
    | some v =>
      obtain ⟨i, h1, h2, h3⟩ := h
      have hne : i ≠ start := by
        rintro rfl
        simp [hr] at h3
      simp [memReadRange, memRead, hs, hr, ih (start + 1) (by omega) ⟨i, by omega, by omega, h3⟩]

end Sys2Proof.Machine
end

