-- ==== Sys2Proof/Laws/State.lean ====
section
/-! SUPPORT. One lemma per field of each update of the state and of the registers. -/

namespace Sys2Proof.Machine

section Updates
variable (s : State) (p : Parser) (r : Response) (w : OpWord)

@[simp] theorem withParser_build : (s.withParser p).build = s.build := rfl
@[simp] theorem withParser_parser : (s.withParser p).parser = p := rfl
@[simp] theorem withParser_inputs : (s.withParser p).inputs = s.inputs := rfl
@[simp] theorem withParser_returned : (s.withParser p).returned = s.returned := rfl

@[simp] theorem respond_build : (s.respond r).build = s.build := rfl
@[simp] theorem respond_parser : (s.respond r).parser = s.parser := rfl
@[simp] theorem respond_inputs : (s.respond r).inputs = s.inputs := rfl
@[simp] theorem respond_returned : (s.respond r).returned = s.returned ++ [r] := rfl

@[simp] theorem stateAbort_build : s.abort.build = s.build := rfl
@[simp] theorem stateAbort_parser : s.abort.parser = s.parser.abort := rfl
@[simp] theorem stateAbort_inputs : s.abort.inputs = s.inputs := rfl
@[simp] theorem stateAbort_returned : s.abort.returned = s.returned := rfl

@[simp] theorem clearPending_phase : p.clearPending.phase = p.phase := rfl
@[simp] theorem clearPending_rs : p.clearPending.rs = p.rs := rfl
@[simp] theorem clearPending_pendKind : p.clearPending.pendKind = none := rfl
@[simp] theorem clearPending_pendChan : p.clearPending.pendChan = none := rfl
@[simp] theorem clearPending_pendD0 : p.clearPending.pendD0 = none := rfl
@[simp] theorem clearPending_sxLen : p.clearPending.sxLen = 0 := rfl
@[simp] theorem clearPending_sxBuf : p.clearPending.sxBuf = [] := rfl

@[simp] theorem abort_phase : p.abort.phase = .idle := rfl
@[simp] theorem abort_rs : p.abort.rs = p.rs := rfl
@[simp] theorem abort_pendKind : p.abort.pendKind = none := rfl
@[simp] theorem abort_pendChan : p.abort.pendChan = none := rfl
@[simp] theorem abort_pendD0 : p.abort.pendD0 = none := rfl
@[simp] theorem abort_sxLen : p.abort.sxLen = 0 := rfl
@[simp] theorem abort_sxBuf : p.abort.sxBuf = [] := rfl

@[simp] theorem issueFirst_build : (s.issueFirst w).build = s.build := rfl
@[simp] theorem issueFirst_parser : (s.issueFirst w).parser = s.parser := rfl
@[simp] theorem issueFirst_inputs : (s.issueFirst w).inputs = w :: s.inputs := rfl
@[simp] theorem issueFirst_returned : (s.issueFirst w).returned = s.returned := rfl

end Updates

/-- Aborting twice is aborting once (R210's "two resets equal one" rests on the same fact). -/
theorem abort_abort (p : Parser) : p.abort.abort = p.abort := rfl

theorem stateAbort_abort (s : State) : s.abort.abort = s.abort := rfl

/-- Answering does not look at the registers, so it commutes with replacing them. -/
theorem respond_withParser (s : State) (p : Parser) (r : Response) :
    (s.withParser p).respond r = (s.respond r).withParser p := rfl

@[simp] theorem events_respond (s : State) (r : Response) :
    (s.respond r).events = s.events ++ r.event?.toList := by
  simp only [State.events, respond_returned, List.filterMap_append]
  cases h : r.event? <;> simp [h]

end Sys2Proof.Machine
end

