-- ==== Sys2Proof/Laws/Actions.lean ====
section
/-! SUPPORT. For each shared action, one lemma that says everything it can do when it answers a next state, and the
cases the dispatch of R84 makes of it. -/

namespace Sys2Proof.Machine

theorem emit_next {e : Event} {s t : State} (h : emit e s = .next t) : t = s.respond (.fed (some e)) := by
  cases h
  rfl

theorem noEvent_next {s t : State} (h : noEvent s = .next t) : t = s.respond (.fed none) := by
  cases h
  rfl

/-- `append(b)` (R162). -/
theorem appendByte_next {b : Byte} {s t : State} (h : appendByte b s = .next t) :
    s.parser.sxLen < s.build.capacity ∧
      t = (s.withParser { s.parser with
        sxLen := s.parser.sxLen + 1, sxBuf := s.parser.sxBuf.write s.parser.sxLen b }).respond (.fed none) := by
  unfold appendByte at h
  split at h
  · rename_i m hm
    obtain ⟨hlt, rfl⟩ := memWrite_ok hm
    exact ⟨hlt, noEvent_next h⟩
  · cases h

/-- `append(b)` with room answers a next state (R162). -/
theorem appendByte_of_room {b : Byte} {s : State} (h : s.parser.sxLen < s.build.capacity) :
    appendByte b s = .next ((s.withParser { s.parser with
      sxLen := s.parser.sxLen + 1, sxBuf := s.parser.sxBuf.write s.parser.sxLen b }).respond (.fed none)) := by
  simp only [appendByte, memWrite_of_lt h]
  rfl

theorem sysExByte_of_room {b : Byte} {s : State} (h : s.parser.sxLen < s.build.capacity) :
    sysExByte b s = appendByte b s := by
  simp [sysExByte, hasRoom, h]

theorem sysExByte_of_full {b : Byte} {s : State} (h : ¬ s.parser.sxLen < s.build.capacity) :
    sysExByte b s = .next (s.abort.respond (.fed none)) := by
  simp [sysExByte, hasRoom, h, overflow, noEvent]

/-- A payload byte is appended or drops the message (R162, R163). -/
theorem sysExByte_next {b : Byte} {s t : State} (h : sysExByte b s = .next t) :
    (s.parser.sxLen < s.build.capacity ∧
      t = (s.withParser { s.parser with
        sxLen := s.parser.sxLen + 1, sxBuf := s.parser.sxBuf.write s.parser.sxLen b }).respond (.fed none)) ∨
    (¬ s.parser.sxLen < s.build.capacity ∧ t = s.abort.respond (.fed none)) := by
  by_cases hr : s.parser.sxLen < s.build.capacity
  · rw [sysExByte_of_room hr] at h
    exact .inl (appendByte_next h)
  · rw [sysExByte_of_full hr] at h
    cases h
    exact .inr ⟨hr, rfl⟩

/-- A payload byte never stops the machine. -/
theorem sysExByte_total (b : Byte) (s : State) : ∃ t, sysExByte b s = .next t := by
  by_cases hr : s.parser.sxLen < s.build.capacity
  · exact ⟨_, (sysExByte_of_room hr).trans (appendByte_of_room hr)⟩
  · exact ⟨_, sysExByte_of_full hr⟩

/-- `endSysEx()` (R161). -/
theorem endSysEx_next {s t : State} (h : endSysEx s = .next t) :
    ∃ p : List Byte, p.length = s.parser.sxLen ∧ (∀ i, i < s.parser.sxLen → p[i]? = s.parser.sxBuf.read i) ∧
      t = s.abort.respond (.fed (some (.systemCommon 0#3 (some p)))) := by
  unfold endSysEx at h
  split at h
  · rename_i p hp
    obtain ⟨hlen, hget⟩ := memReadRange_ok hp
    exact ⟨p, hlen, by simpa using hget, emit_next h⟩
  · cases h

/-- `endSysEx()` answers a next state when the entries below `sx_len` hold bytes (R161, INV6). -/
theorem endSysEx_of_filled {s : State} (hcap : s.parser.sxLen ≤ s.build.capacity)
    (h : ∀ i, i < s.parser.sxLen → ∃ v, s.parser.sxBuf.read i = some v) :
    ∃ p : List Byte, p.length = s.parser.sxLen ∧ (∀ i, i < s.parser.sxLen → p[i]? = s.parser.sxBuf.read i) ∧
      endSysEx s = .next (s.abort.respond (.fed (some (.systemCommon 0#3 (some p))))) := by
  obtain ⟨p, hp, hlen, hget⟩ := memReadRange_of_some (cap := s.build.capacity) (m := s.parser.sxBuf)
    s.parser.sxLen 0 (by omega) (fun i _ hi => h i (by omega))
  exact ⟨p, hlen, by simpa using hget, by simp [endSysEx, hp, emit]⟩

/-- Outside SysEx a Channel Voice status byte aborts and starts a message (R82, R101). -/
theorem cvStatus_outside {k : CVKind} {ch : Channel} {s : State} (h : s.parser.phase ≠ .inSysEx) :
    cvStatus k ch s = startCV k ch s.abort := by
  unfold cvStatus
  split <;> first | rfl | contradiction

/-- The three things a Channel Voice status byte can be (R100). -/
theorem cvStatus_cases (k : CVKind) (ch : Channel) (s : State) :
    (s.parser.phase = .inSysEx ∧ s.build.policy = .legacy ∧ cvStatus k ch s = sysExByte (cvByte k ch) s) ∨
    (¬ (s.parser.phase = .inSysEx ∧ s.build.policy = .legacy) ∧ cvStatus k ch s = startCV k ch s.abort) := by
  cases hp : s.parser.phase <;> cases hq : s.build.policy <;> simp [cvStatus, hp, hq]

/-- Outside SysEx a System Common byte aborts, then starts SysEx or is emitted (R82, R130). -/
theorem scStatus_outside {c : Code} {s : State} (h : s.parser.phase ≠ .inSysEx) :
    scStatus c s = scIdle c s.abort := by
  unfold scStatus
  split <;> first | rfl | contradiction

/-- The four things a System Common byte can be (R130). -/
theorem scStatus_cases (c : Code) (s : State) :
    (s.parser.phase = .inSysEx ∧ c = 7#3 ∧ scStatus c s = endSysEx s) ∨
    (s.parser.phase = .inSysEx ∧ c ≠ 7#3 ∧ s.build.policy = .legacy ∧ scStatus c s = sysExByte (scByte c) s) ∨
    (¬ (s.parser.phase = .inSysEx ∧ (c = 7#3 ∨ s.build.policy = .legacy)) ∧ scStatus c s = scIdle c s.abort) := by
  by_cases hc : c = 7#3 <;> cases hp : s.parser.phase <;> cases hq : s.build.policy <;>
    simp [scStatus, hp, hq, hc]

/-- The two things an aborted System Common byte can be (R131, R132). -/
theorem scIdle_cases (c : Code) (s : State) :
    (c = 0#3 ∧ scIdle c s = .next ((s.withParser { s.parser with sxLen := 0, phase := .inSysEx }).respond (.fed none))) ∨
    (c ≠ 0#3 ∧ scIdle c s = .next (s.abort.respond (.fed (some (.systemCommon c none))))) := by
  by_cases hc : c = 0#3
  · exact .inl ⟨hc, by simp [scIdle, hc, startSysEx, noEvent]⟩
  · exact .inr ⟨hc, by simp [scIdle, hc, emitSC, emit]⟩

/-- The three things a data byte can be in `Idle` (R110, R111). -/
theorem idleData_cases (d : Data7) (s : State) :
    (s.parser.rs = none ∧ idleData d s = .next (s.respond (.fed none))) ∨
    (∃ k ch, s.parser.rs = some (k, ch) ∧ dataCount k = 1 ∧
      idleData d s = .next (s.abort.respond (.fed (some (.channelVoice (normalizeKind k d) ch d none))))) ∨
    (∃ k ch, s.parser.rs = some (k, ch) ∧ dataCount k ≠ 1 ∧
      idleData d s = .next ((s.withParser { s.parser with
        pendKind := some k, pendChan := some ch, pendD0 := some d, phase := .awaitingData1 }).respond (.fed none))) := by
  cases hrs : s.parser.rs with
  | none => exact .inl ⟨rfl, by simp [idleData, hrs, noEvent]⟩
  | some kc =>
    obtain ⟨k, ch⟩ := kc
    by_cases hk : dataCount k = 1
    · exact .inr (.inl ⟨k, ch, rfl, hk, by simp [idleData, hrs, hk, completeCV, emit]⟩)
    · exact .inr (.inr ⟨k, ch, rfl, hk, by simp [idleData, hrs, hk, noEvent]⟩)

/-- The first data byte after a status byte (R112). -/
theorem dataAD0_of_some {k : CVKind} {ch : Channel} {s : State} (hk : s.parser.pendKind = some k)
    (hc : s.parser.pendChan = some ch) (d : Data7) :
    dataAD0 d s =
      if dataCount k = 1 then .next (s.abort.respond (.fed (some (.channelVoice (normalizeKind k d) ch d none))))
      else .next ((s.withParser { s.parser with pendD0 := some d, phase := .awaitingData1 }).respond (.fed none)) := by
  simp only [dataAD0, hk, hc]
  rfl

/-- It answers a next state only where kind and channel hold a value (R22). -/
theorem dataAD0_next {d : Data7} {s t : State} (h : dataAD0 d s = .next t) :
    ∃ k ch, s.parser.pendKind = some k ∧ s.parser.pendChan = some ch := by
  unfold dataAD0 at h
  split at h
  · cases h
  · cases h
  · exact ⟨_, _, ‹_›, ‹_›⟩

/-- The second data byte completes the message (R113, R114). -/
theorem dataAD1_of_some {k : CVKind} {ch : Channel} {d0 : Data7} {s : State} (hk : s.parser.pendKind = some k)
    (hc : s.parser.pendChan = some ch) (h0 : s.parser.pendD0 = some d0) (d : Data7) :
    dataAD1 d s =
      .next (s.abort.respond (.fed (some (.channelVoice (normalizeKind k d) ch d0 (some d))))) := by
  simp only [dataAD1, hk, hc, h0]
  rfl

/-- It answers a next state only where kind, channel and first data byte hold a value (R22). -/
theorem dataAD1_next {d : Data7} {s t : State} (h : dataAD1 d s = .next t) :
    ∃ k ch d0, s.parser.pendKind = some k ∧ s.parser.pendChan = some ch ∧ s.parser.pendD0 = some d0 := by
  unfold dataAD1 at h
  split at h
  · cases h
  · cases h
  · cases h
  · exact ⟨_, _, _, ‹_›, ‹_›, ‹_›⟩

/-- `normalizeKind` rewrites nothing but a NoteOn (R114). -/
theorem normalizeKind_of_ne {k : CVKind} (h : k ≠ .noteOn) (d : Data7) : normalizeKind k d = k := by
  simp [normalizeKind, h]

/-- A one-data-byte kind is never rewritten (R114). -/
theorem normalizeKind_of_one {k : CVKind} (h : dataCount k = 1) (d : Data7) : normalizeKind k d = k :=
  normalizeKind_of_ne (by rintro rfl; cases h) d

end Sys2Proof.Machine
end

