-- ==== Sys2Proof/Laws/Bytes.lean ====
section
/-! SUPPORT. The byte formats of R60: each byte decodes to the operation it was put together from, and an operation
feeds the byte it was decoded from. -/

namespace Sys2Proof.Machine

theorem decodeByte_cvByte (k : CVKind) (ch : Channel) : decodeByte (cvByte k ch) = cvInstr k ch := by
  cases k <;> revert ch <;> decide

theorem decodeByte_dataByteOf (d : Data7) : decodeByte (dataByteOf d) = .data d := by
  revert d
  decide

theorem byteFed_decodeByte (b : Byte) : byteFed (decodeByte b) = b := by
  revert b
  decide

/-- A word made from a byte decodes to the byte's operation (R61). -/
theorem decode_feedWord (b : Byte) : decode (feedWord b) = decodeByte b := by
  revert b
  decide

theorem decode_resetWord : decode resetWord = .reset := by decide

/-- A byte below 0xF8 is a data byte, a Channel Voice status byte or a System Common byte (R60), and is the byte its
fields put together. -/
theorem byte_formats (b : Byte) (h : b ≤ 0xF7#8) :
    (b ≤ 0x7F#8 ∧ ∃ d, b = dataByteOf d) ∨ (¬ b ≤ 0x7F#8 ∧ ∃ k ch, b = cvByte k ch) ∨
      (¬ b ≤ 0x7F#8 ∧ ∃ c, b = scByte c ∧ (b ≠ 0xF7#8 → c ≠ 7#3)) := by
  have key : ∀ b : Byte, b ≤ 0xF7#8 →
      (b ≤ 0x7F#8 ∧ b = dataByteOf (dataOf b)) ∨
      (¬ b ≤ 0x7F#8 ∧ (kindOf (familyOf b)).any (fun k => b == cvByte k (channelOf b)) = true) ∨
      (¬ b ≤ 0x7F#8 ∧ b = scByte (codeOf b) ∧ (b ≠ 0xF7#8 → codeOf b ≠ 7#3)) := by decide
  rcases key b h with ⟨h1, h2⟩ | ⟨h1, h2⟩ | ⟨h1, h2, h3⟩
  · exact .inl ⟨h1, _, h2⟩
  · obtain ⟨k, _, hk⟩ := (Option.any_eq_true _ _).1 h2
    exact .inr (.inl ⟨h1, k, _, eq_of_beq hk⟩)
  · exact .inr (.inr ⟨h1, _, h2, h3⟩)

/-- A byte from 0xF8 on is a Real-Time byte (R60). -/
theorem byte_realTime (b : Byte) (h : 0xF8#8 ≤ b) : b = rtByte (codeOf b) := by
  revert b
  decide

end Sys2Proof.Machine
end

