-- ==== Sys2Proof/Laws/Step.lean ====
section
/-! SUPPORT. The dispatch of `exec` by the kind of operation, and how a run unrolls. -/

namespace Sys2Proof.Machine

/-- `exec` of a Channel Voice status operation is the shared action (R102 to R108). -/
theorem exec_cvInstr (k : CVKind) (ch : Channel) (s : State) : exec (cvInstr k ch) s = cvStatus k ch s := by
  cases k <;> rfl

/-- `exec` of a System Common byte is the shared action (R131, R133 to R139). -/
theorem exec_scByte (c : Code) (s : State) : exec (decodeByte (scByte c)) s = scStatus c s := by
  have h : c = 0 ∨ c = 1 ∨ c = 2 ∨ c = 3 ∨ c = 4 ∨ c = 5 ∨ c = 6 ∨ c = 7 := by
    revert c
    decide
  rcases h with rfl | rfl | rfl | rfl | rfl | rfl | rfl | rfl <;> rfl

/-- `exec` of a Real-Time byte is the shared action (R191 to R198). -/
theorem exec_rtByte (c : Code) (s : State) : exec (decodeByte (rtByte c)) s = realTime c s := by
  have h : c = 0 ∨ c = 1 ∨ c = 2 ∨ c = 3 ∨ c = 4 ∨ c = 5 ∨ c = 6 ∨ c = 7 := by
    revert c
    decide
  rcases h with rfl | rfl | rfl | rfl | rfl | rfl | rfl | rfl <;> rfl

/-- Every operation is one of five: a data byte, a Channel Voice status, a System Common byte, a Real-Time byte,
`reset` (R60, R62). -/
theorem instr_cases (i : Instr) :
    (∃ d, i = .data d) ∨ (∃ k ch, i = cvInstr k ch) ∨ (∃ c, i = decodeByte (scByte c)) ∨
      (∃ c, i = decodeByte (rtByte c)) ∨ i = .reset := by
  cases i with
  | data d => exact .inl ⟨d, rfl⟩
  | noteOff ch => exact .inr (.inl ⟨.noteOff, ch, rfl⟩)
  | noteOn ch => exact .inr (.inl ⟨.noteOn, ch, rfl⟩)
  | polyPress ch => exact .inr (.inl ⟨.polyPressure, ch, rfl⟩)
  | cc ch => exact .inr (.inl ⟨.controlChange, ch, rfl⟩)
  | progChg ch => exact .inr (.inl ⟨.programChange, ch, rfl⟩)
  | chanPress ch => exact .inr (.inl ⟨.channelPressure, ch, rfl⟩)
  | pitchBend ch => exact .inr (.inl ⟨.pitchBend, ch, rfl⟩)
  | sox => exact .inr (.inr (.inl ⟨0, rfl⟩))
  | sc1 => exact .inr (.inr (.inl ⟨1, rfl⟩))
  | sc2 => exact .inr (.inr (.inl ⟨2, rfl⟩))
  | sc3 => exact .inr (.inr (.inl ⟨3, rfl⟩))
  | sc4 => exact .inr (.inr (.inl ⟨4, rfl⟩))
  | sc5 => exact .inr (.inr (.inl ⟨5, rfl⟩))
  | sc6 => exact .inr (.inr (.inl ⟨6, rfl⟩))
  | eox => exact .inr (.inr (.inl ⟨7, rfl⟩))
  | rt0 => exact .inr (.inr (.inr (.inl ⟨0, rfl⟩)))
  | rt1 => exact .inr (.inr (.inr (.inl ⟨1, rfl⟩)))
  | rt2 => exact .inr (.inr (.inr (.inl ⟨2, rfl⟩)))
  | rt3 => exact .inr (.inr (.inr (.inl ⟨3, rfl⟩)))
  | rt4 => exact .inr (.inr (.inr (.inl ⟨4, rfl⟩)))
  | rt5 => exact .inr (.inr (.inr (.inl ⟨5, rfl⟩)))
  | rt6 => exact .inr (.inr (.inr (.inl ⟨6, rfl⟩)))
  | rt7 => exact .inr (.inr (.inr (.inl ⟨7, rfl⟩)))
  | reset => exact .inr (.inr (.inr (.inr rfl)))

/-- In SysEx every byte up to 0xF6 that the policy lets be payload is one (R160, R164). -/
theorem exec_payloadByte {b : Byte} {s : State} (h : b ≤ 0xF6#8) (hq : b ≤ 0x7F#8 ∨ s.build.policy = .legacy)
    (hp : s.parser.phase = .inSysEx) : exec (decodeByte b) s = sysExByte b s := by
  have h7 : b ≤ 0xF7#8 := by bv_omega
  have hne : b ≠ 0xF7#8 := by bv_omega
  rcases byte_formats b h7 with ⟨_, d, rfl⟩ | ⟨h1, k, ch, rfl⟩ | ⟨h1, c, rfl, hc⟩
  · rw [decodeByte_dataByteOf]
    simp [exec, execData, hp]
  · rw [decodeByte_cvByte, exec_cvInstr]
    simp [cvStatus, hp, hq.resolve_left h1]
  · rw [exec_scByte]
    simp [scStatus, hp, hq.resolve_left h1, hc hne]

/-- `RESET` (R210). -/
theorem exec_reset (s : State) : exec .reset s = .next ((s.withParser Parser.reset).respond .resetDone) := rfl

/-- A step with an operation waiting, in the shape a run meets it. -/
theorem step_load_cons (w : OpWord) (ws : List OpWord) (s : State) :
    step (s.load (w :: ws)) = exec (decode w) (s.load ws) := rfl

/-- A step with a `feed` waiting runs the fed byte's operation (R48, R61). -/
theorem step_feedWord {b : Byte} {ws : List OpWord} {s : State} (h : s.inputs = feedWord b :: ws) :
    step s = exec (decodeByte b) { s with inputs := ws } := by
  simp [step, fetch, h, decode_feedWord]

/-- A run of no steps. -/
@[simp] theorem run_zero (s : State) : run 0 s = .next s := rfl

/-- A run whose first step answers a next state. -/
theorem run_succ_of_next {n : Nat} {s s' : State} (h : step s = .next s') : run (n + 1) s = run n s' := by
  show Host.Core.run Sys2Proof.core (n + 1) s = Host.Core.run Sys2Proof.core n s'
  have h' : Sys2Proof.core.step s = .next s' := h
  simp only [Host.Core.run, h']

/-- Runs join end to end. -/
theorem run_add_of_next {m n : Nat} {s s' : State} (h : run m s = .next s') : run (m + n) s = run n s' := by
  induction m generalizing s with
  | zero =>
    cases h
    rw [Nat.zero_add]
  | succ m ih =>
    cases hs : step s with
    | next u =>
      rw [run_succ_of_next hs] at h
      rw [Nat.succ_add, run_succ_of_next hs]
      exact ih h
    | fault f =>
      have h' : Sys2Proof.core.step s = .fault f := hs
      simp [run, Host.Core.run, h'] at h
    | refused r =>
      have h' : Sys2Proof.core.step s = .refused r := hs
      simp [run, Host.Core.run, h'] at h

end Sys2Proof.Machine
end

