-- ==== Sys2Proof/Laws/Effect.lean ====
section
/-! SUPPORT. What an operation can do, said once: `exec i s = .next t` leaves exactly the cases of `Effect`. Claims about
every operation are case analyses of it. -/

namespace Sys2Proof.Machine

/-- The cases of a completed operation, each with the condition on the state that leads to it. -/
inductive Effect (s : State) : Instr → State → Prop
  /-- R110. -/
  | orphan (d : Data7) (hp : s.parser.phase = .idle) (hr : s.parser.rs = none) :
      Effect s (.data d) (s.respond (.fed none))
  /-- R111, a one-data-byte kind. -/
  | runningWhole (d : Data7) (k : CVKind) (ch : Channel) (hp : s.parser.phase = .idle)
      (hr : s.parser.rs = some (k, ch)) (hk : dataCount k = 1) :
      Effect s (.data d) (s.abort.respond (.fed (some (.channelVoice (normalizeKind k d) ch d none))))
  /-- R111, a two-data-byte kind. -/
  | runningFirst (d : Data7) (k : CVKind) (ch : Channel) (hp : s.parser.phase = .idle)
      (hr : s.parser.rs = some (k, ch)) (hk : dataCount k ≠ 1) :
      Effect s (.data d) ((s.withParser { s.parser with
        pendKind := some k, pendChan := some ch, pendD0 := some d, phase := .awaitingData1 }).respond (.fed none))
  /-- R112, a one-data-byte kind. -/
  | whole (d : Data7) (k : CVKind) (ch : Channel) (hp : s.parser.phase = .awaitingData0)
      (hk : s.parser.pendKind = some k) (hc : s.parser.pendChan = some ch) (hn : dataCount k = 1) :
      Effect s (.data d) (s.abort.respond (.fed (some (.channelVoice (normalizeKind k d) ch d none))))
  /-- R112, a two-data-byte kind. -/
  | first (d : Data7) (k : CVKind) (ch : Channel) (hp : s.parser.phase = .awaitingData0)
      (hk : s.parser.pendKind = some k) (hc : s.parser.pendChan = some ch) (hn : dataCount k ≠ 1) :
      Effect s (.data d) ((s.withParser { s.parser with
        pendD0 := some d, phase := .awaitingData1 }).respond (.fed none))
  /-- R113. -/
  | second (d : Data7) (k : CVKind) (ch : Channel) (d0 : Data7) (hp : s.parser.phase = .awaitingData1)
      (hk : s.parser.pendKind = some k) (hc : s.parser.pendChan = some ch) (h0 : s.parser.pendD0 = some d0) :
      Effect s (.data d) (s.abort.respond (.fed (some (.channelVoice (normalizeKind k d) ch d0 (some d)))))
  /-- R162: an operation that is payload; a status byte is payload under `Legacy` only. -/
  | appended (b : Byte) (hp : s.parser.phase = .inSysEx) (hb : b ≤ 0xF6#8)
      (hq : b ≤ 0x7F#8 ∨ s.build.policy = .legacy) (hl : s.parser.sxLen < s.build.capacity) :
      Effect s (decodeByte b) ((s.withParser { s.parser with
        sxLen := s.parser.sxLen + 1, sxBuf := s.parser.sxBuf.write s.parser.sxLen b }).respond (.fed none))
  /-- R163. -/
  | overflowed (b : Byte) (hp : s.parser.phase = .inSysEx) (hb : b ≤ 0xF6#8)
      (hq : b ≤ 0x7F#8 ∨ s.build.policy = .legacy) (hl : ¬ s.parser.sxLen < s.build.capacity) :
      Effect s (decodeByte b) (s.abort.respond (.fed none))
  /-- R101 after R82 or R165. -/
  | started (k : CVKind) (ch : Channel) (hn : ¬ (s.parser.phase = .inSysEx ∧ s.build.policy = .legacy)) :
      Effect s (cvInstr k ch) ((s.withParser { s.parser.abort with
        rs := some (k, ch), pendKind := some k, pendChan := some ch, pendD0 := none,
        phase := .awaitingData0 }).respond (.fed none))
  /-- R161. -/
  | ended (p : List Byte) (hp : s.parser.phase = .inSysEx) (hl : p.length = s.parser.sxLen)
      (hg : ∀ i, i < s.parser.sxLen → p[i]? = s.parser.sxBuf.read i) :
      Effect s .eox (s.abort.respond (.fed (some (.systemCommon 0#3 (some p)))))
  /-- R131 after R82 or R165. -/
  | opened (hn : ¬ (s.parser.phase = .inSysEx ∧ s.build.policy = .legacy)) :
      Effect s .sox ((s.withParser { s.parser.abort with sxLen := 0, phase := .inSysEx }).respond (.fed none))
  /-- R132 after R82 or R165. -/
  | common (c : Code) (hc : c ≠ 0#3)
      (hn : ¬ (s.parser.phase = .inSysEx ∧ (c = 7#3 ∨ s.build.policy = .legacy))) :
      Effect s (decodeByte (scByte c)) (s.abort.respond (.fed (some (.systemCommon c none))))
  /-- R190. -/
  | realTime (c : Code) : Effect s (decodeByte (rtByte c)) (s.respond (.fed (some (.realTime c))))
  /-- R210. -/
  | wasReset : Effect s .reset ((s.withParser Parser.reset).respond .resetDone)

/-- A payload byte's two cases (R162, R163). -/
theorem effect_sysExByte {b : Byte} {s t : State} (hp : s.parser.phase = .inSysEx) (hb : b ≤ 0xF6#8)
    (hq : b ≤ 0x7F#8 ∨ s.build.policy = .legacy) (h : sysExByte b s = .next t) : Effect s (decodeByte b) t := by
  rcases sysExByte_next h with ⟨hl, rfl⟩ | ⟨hl, rfl⟩
  · exact .appended b hp hb hq hl
  · exact .overflowed b hp hb hq hl

/-- A data byte's cases (R109). -/
theorem effect_execData {d : Data7} {s t : State} (h : execData d s = .next t) : Effect s (.data d) t := by
  unfold execData at h
  split at h
  · rename_i hp
    rcases idleData_cases d s with ⟨hr, e⟩ | ⟨k, ch, hr, hk, e⟩ | ⟨k, ch, hr, hk, e⟩ <;> rw [e] at h <;> cases h
    · exact .orphan d hp hr
    · exact .runningWhole d k ch hp hr hk
    · exact .runningFirst d k ch hp hr hk
  · rename_i hp
    obtain ⟨k, ch, hk, hc⟩ := dataAD0_next h
    rw [dataAD0_of_some hk hc] at h
    split at h <;> cases h
    · exact .whole d k ch hp hk hc ‹_›
    · exact .first d k ch hp hk hc ‹_›
  · rename_i hp
    obtain ⟨k, ch, d0, hk, hc, h0⟩ := dataAD1_next h
    rw [dataAD1_of_some hk hc h0] at h
    cases h
    exact .second d k ch d0 hp hk hc h0
  · rename_i hp
    have hb : dataByteOf d ≤ 0x7F#8 := by
      clear h
      revert d
      decide
    rw [← decodeByte_dataByteOf]
    exact effect_sysExByte hp (BitVec.le_trans hb (by decide)) (.inl hb) h

/-- A Channel Voice status byte's cases (R100). -/
theorem effect_cvStatus {k : CVKind} {ch : Channel} {s t : State} (h : cvStatus k ch s = .next t) :
    Effect s (cvInstr k ch) t := by
  rcases cvStatus_cases k ch s with ⟨hp, hq, e⟩ | ⟨hn, e⟩ <;> rw [e] at h
  · have hb : cvByte k ch ≤ 0xF6#8 := by
      clear h e
      cases k <;> revert ch <;> decide
    rw [← decodeByte_cvByte]
    exact effect_sysExByte hp hb (.inr hq) h
  · cases h
    exact .started k ch hn

/-- A System Common byte's cases (R130). -/
theorem effect_scStatus {c : Code} {s t : State} (h : scStatus c s = .next t) :
    Effect s (decodeByte (scByte c)) t := by
  rcases scStatus_cases c s with ⟨hp, rfl, e⟩ | ⟨hp, hc, hq, e⟩ | ⟨hn, e⟩ <;> rw [e] at h
  · obtain ⟨p, hl, hg, rfl⟩ := endSysEx_next h
    exact .ended p hp hl hg
  · have hb : scByte c ≤ 0xF6#8 := by
      clear h e
      revert c
      decide
    exact effect_sysExByte hp hb (.inr hq) h
  · rcases scIdle_cases c s.abort with ⟨rfl, e⟩ | ⟨hc, e⟩ <;> rw [e] at h <;> cases h
    · exact .opened (fun x => hn ⟨x.1, .inr x.2⟩)
    · exact .common c hc hn

/-- Everything an operation can do when it answers a next state. -/
theorem exec_effect {i : Instr} {s t : State} (h : exec i s = .next t) : Effect s i t := by
  rcases instr_cases i with ⟨d, rfl⟩ | ⟨k, ch, rfl⟩ | ⟨c, rfl⟩ | ⟨c, rfl⟩ | rfl
  · exact effect_execData h
  · rw [exec_cvInstr] at h
    exact effect_cvStatus h
  · rw [exec_scByte] at h
    exact effect_scStatus h
  · rw [exec_rtByte] at h
    cases h
    exact .realTime c
  · cases h
    exact .wasReset

end Sys2Proof.Machine
end

