-- ==== Sys2Proof/Laws/Exec.lean ====
section
/-! SUPPORT. What every operation has in common: the answer is fixed by the parameters and the registers alone; the
operations waiting and the results already returned are carried along. -/

namespace Sys2Proof.Machine

/-- `u` answers what `t` answers, read from an instance with the same parameters and registers but other operations
waiting and other results returned. -/
def SameAnswer (s s' : State) (u u' : Result) : Prop :=
  match u, u' with
  | .next t, .next t' =>
    t.build = s.build ∧ t'.build = s.build ∧ t.parser = t'.parser ∧ t.inputs = s.inputs ∧ t'.inputs = s'.inputs ∧
      ∃ r, t.returned = s.returned ++ [r] ∧ t'.returned = s'.returned ++ [r]
  | .fault f, .fault f' => f = f'
  | .refused r, .refused r' => r = r'
  | _, _ => False

section SameAnswers
variable {s s' : State} (hb : s.build = s'.build) (hp : s.parser = s'.parser)
include hb hp

theorem sameAnswer_respond (f : Parser → Parser) (r : Response) :
    SameAnswer s s' (.next ((s.withParser (f s.parser)).respond r)) (.next ((s'.withParser (f s'.parser)).respond r)) :=
  ⟨rfl, hb.symm, congrArg f hp, rfl, rfl, r, rfl, rfl⟩

theorem sameAnswer_sysExByte (b : Byte) : SameAnswer s s' (sysExByte b s) (sysExByte b s') := by
  by_cases h : s.parser.sxLen < s.build.capacity
  · have h' : s'.parser.sxLen < s'.build.capacity := by rw [← hb, ← hp]; exact h
    rw [sysExByte_of_room h, sysExByte_of_room h', appendByte_of_room h, appendByte_of_room h']
    exact sameAnswer_respond hb hp
      (fun p => { p with sxLen := p.sxLen + 1, sxBuf := p.sxBuf.write p.sxLen b }) _
  · have h' : ¬ s'.parser.sxLen < s'.build.capacity := by rw [← hb, ← hp]; exact h
    rw [sysExByte_of_full h, sysExByte_of_full h']
    exact sameAnswer_respond hb hp Parser.abort _

theorem sameAnswer_endSysEx : SameAnswer s s' (endSysEx s) (endSysEx s') := by
  unfold endSysEx
  rw [← hb, ← hp]
  split
  · exact sameAnswer_respond hb hp Parser.abort _
  · rfl

theorem sameAnswer_cvStatus (k : CVKind) (ch : Channel) : SameAnswer s s' (cvStatus k ch s) (cvStatus k ch s') := by
  have start : SameAnswer s s' (startCV k ch s.abort) (startCV k ch s'.abort) :=
    sameAnswer_respond hb hp
      (fun p => { p.abort with
        rs := some (k, ch), pendKind := some k, pendChan := some ch, pendD0 := none, phase := .awaitingData0 }) _
  rcases cvStatus_cases k ch s with ⟨h1, h2, h⟩ | ⟨h1, h⟩ <;>
    rcases cvStatus_cases k ch s' with ⟨g1, g2, g⟩ | ⟨g1, g⟩ <;> rw [h, g]
  · exact sameAnswer_sysExByte hb hp _
  · exact absurd ⟨hp ▸ h1, hb ▸ h2⟩ g1
  · exact absurd ⟨hp ▸ g1, hb ▸ g2⟩ h1
  · exact start

theorem sameAnswer_scIdle (c : Code) : SameAnswer s s' (scIdle c s.abort) (scIdle c s'.abort) := by
  rcases scIdle_cases c s.abort with ⟨h1, h⟩ | ⟨h1, h⟩ <;>
    rcases scIdle_cases c s'.abort with ⟨g1, g⟩ | ⟨g1, g⟩ <;> rw [h, g]
  · exact sameAnswer_respond hb hp (fun p => { p.abort with sxLen := 0, phase := .inSysEx }) _
  · exact absurd h1 g1
  · exact absurd g1 h1
  · exact sameAnswer_respond hb hp Parser.abort _

theorem sameAnswer_scStatus (c : Code) : SameAnswer s s' (scStatus c s) (scStatus c s') := by
  unfold scStatus
  rw [← hb, ← hp]
  split
  · split
    · exact sameAnswer_endSysEx hb hp
    · split
      · exact sameAnswer_sysExByte hb hp _
      · exact sameAnswer_scIdle hb hp c
  all_goals exact sameAnswer_scIdle hb hp c

theorem sameAnswer_completeCV (k : CVKind) (ch : Channel) (d0 : Data7) (d1 : Option Data7) (last : Data7) :
    SameAnswer s s' (completeCV k ch d0 d1 last s) (completeCV k ch d0 d1 last s') :=
  sameAnswer_respond hb hp Parser.abort _

theorem sameAnswer_execData (d : Data7) : SameAnswer s s' (execData d s) (execData d s') := by
  unfold execData
  rw [← hp]
  split
  · unfold idleData
    rw [← hp]
    split
    · exact sameAnswer_respond hb hp id _
    · split
      · exact sameAnswer_completeCV hb hp _ _ _ _ _
      · rename_i k ch _ _
        exact ⟨rfl, hb.symm, rfl, rfl, rfl, _, rfl, rfl⟩
  · unfold dataAD0
    rw [← hp]
    split
    · rfl
    · rfl
    · split
      · exact sameAnswer_completeCV hb hp _ _ _ _ _
      · exact ⟨rfl, hb.symm, rfl, rfl, rfl, _, rfl, rfl⟩
  · unfold dataAD1
    rw [← hp]
    split
    · rfl
    · rfl
    · rfl
    · exact sameAnswer_completeCV hb hp _ _ _ _ _
  · exact sameAnswer_sysExByte hb hp _

/-- Two instances with the same parameters and registers answer an operation alike. -/
theorem exec_sameAnswer (i : Instr) : SameAnswer s s' (exec i s) (exec i s') := by
  rcases instr_cases i with ⟨d, rfl⟩ | ⟨k, ch, rfl⟩ | ⟨c, rfl⟩ | ⟨c, rfl⟩ | rfl
  · exact sameAnswer_execData hb hp d
  · rw [exec_cvInstr, exec_cvInstr]
    exact sameAnswer_cvStatus hb hp k ch
  · rw [exec_scByte, exec_scByte]
    exact sameAnswer_scStatus hb hp c
  · rw [exec_rtByte, exec_rtByte]
    exact sameAnswer_respond hb hp id _
  · exact sameAnswer_respond hb hp (fun _ => Parser.reset) _

end SameAnswers

end Sys2Proof.Machine
end

