-- ==== Sys2Proof/Laws/Inv.lean ====
section
/-! SUPPORT. The registers after an abort meet the invariants (R18, R21), whatever they were, and what a safe run needs
to know of the parameters. -/

namespace Sys2Proof.Machine

theorem inv_abort (b : BuildParams) (p : Parser) : Inv b p.abort where
  assembling := by simp
  secondDue := by simp
  firstDue := by simp
  idleClear := by simp
  bufferClear := by simp
  bufferFilled := by simp
  bufferBytes := by simp
  bufferForm := by simp

/-- A kind takes one data byte or two (R64). -/
theorem dataCount_of_ne_one {k : CVKind} (h : dataCount k ≠ 1) : dataCount k = 2 := by
  cases k <;> first | rfl | exact absurd rfl h

end Sys2Proof.Machine
end

