-- ==== Sys2Proof/Laws/PerInstr.lean ====
section
/-! SUPPORT. Per operation: its encoded word lies in the operation's own row of the opcode table (R62). -/

namespace Sys2Proof.Laws.EncodingInRow

/-- The encoding of `i` has the bits its row of R62 fixes. -/
def Statement (i : Instr) : Prop := (opcodeRow i).matchesWord (encode i) = true

theorem data (d : Data7) : Statement (.data d) := by
  revert d
  unfold Statement
  decide

theorem noteOff (ch : Channel) : Statement (.noteOff ch) := by
  revert ch
  unfold Statement
  decide

theorem noteOn (ch : Channel) : Statement (.noteOn ch) := by
  revert ch
  unfold Statement
  decide

theorem polyPress (ch : Channel) : Statement (.polyPress ch) := by
  revert ch
  unfold Statement
  decide

theorem cc (ch : Channel) : Statement (.cc ch) := by
  revert ch
  unfold Statement
  decide

theorem progChg (ch : Channel) : Statement (.progChg ch) := by
  revert ch
  unfold Statement
  decide

theorem chanPress (ch : Channel) : Statement (.chanPress ch) := by
  revert ch
  unfold Statement
  decide

theorem pitchBend (ch : Channel) : Statement (.pitchBend ch) := by
  revert ch
  unfold Statement
  decide

theorem sox : Statement .sox := by
  unfold Statement
  decide

theorem sc1 : Statement .sc1 := by
  unfold Statement
  decide

theorem sc2 : Statement .sc2 := by
  unfold Statement
  decide

theorem sc3 : Statement .sc3 := by
  unfold Statement
  decide

theorem sc4 : Statement .sc4 := by
  unfold Statement
  decide

theorem sc5 : Statement .sc5 := by
  unfold Statement
  decide

theorem sc6 : Statement .sc6 := by
  unfold Statement
  decide

theorem eox : Statement .eox := by
  unfold Statement
  decide

theorem rt0 : Statement .rt0 := by
  unfold Statement
  decide

theorem rt1 : Statement .rt1 := by
  unfold Statement
  decide

theorem rt2 : Statement .rt2 := by
  unfold Statement
  decide

theorem rt3 : Statement .rt3 := by
  unfold Statement
  decide

theorem rt4 : Statement .rt4 := by
  unfold Statement
  decide

theorem rt5 : Statement .rt5 := by
  unfold Statement
  decide

theorem rt6 : Statement .rt6 := by
  unfold Statement
  decide

theorem rt7 : Statement .rt7 := by
  unfold Statement
  decide

theorem reset : Statement .reset := by
  unfold Statement
  decide

end Sys2Proof.Laws.EncodingInRow
end

