-- ==== Sys2Proof/Tests/Slice0.lean ====
section
/-! SUPPORT. Tests of single steps, and for each statement with hypotheses a state that meets them. Expected values are
those of spec/95_test_vectors.md and of the rules' own examples; the row is named before each group. -/

namespace Sys2Proof.Tests
open Sys2Proof Sys2Proof.Machine

/-- An instance with the given parameters and registers, nothing waiting, nothing returned. -/
def st (cap : Nat) (pol : SysExStatusPolicy) (p : Parser) : State := ⟨⟨cap, pol⟩, p, [], []⟩

/-- Idle with running status `rs`. -/
def idleWith (rs : Option (CVKind × Channel)) : Parser := { Parser.reset with rs := rs }

/-- A Channel Voice message in progress: `AD0` with no data byte, `AD1` with one. -/
def assembling (k : CVKind) (ch : Channel) (d0 : Option Data7) : Parser where
  phase    := if d0 = none then .awaitingData0 else .awaitingData1
  rs       := some (k, ch)
  pendKind := some k
  pendChan := some ch
  pendD0   := d0
  sxLen    := 0
  sxBuf    := []

/-- SysEx in progress with the bytes `m` collected. -/
def collecting (rs : Option (CVKind × Channel)) (m : List Byte) : Parser where
  phase    := .inSysEx
  rs       := rs
  pendKind := none
  pendChan := none
  pendD0   := none
  sxLen    := m.length
  sxBuf    := (List.range m.length).zip m

/-- What a step left in the registers and returned last. -/
def after : Result → Option (Parser × Option Response)
  | .next t => some (t.parser, t.lastReturned)
  | .fault _ => none
  | .refused _ => none

/-! ## Well-formedness and decoding (95 2.7, R61, R62) -/

theorem test_wf_accepts_nine_bits : opWordFits 0x1FF = true := by decide
theorem test_wf_refuses_tenth_bit : opWordFits 0x200 = false := by decide
theorem test_decode_refuses_tenth_bit : decodeTableWord 16 0x200 = none := by decide

theorem test_decode_data : decode 0b001000000#9 = .data 0b1000000 := by decide
theorem test_decode_noteOff : decode 0b010001111#9 = .noteOff 0b1111 := by decide
theorem test_decode_noteOn : decode 0b010010011#9 = .noteOn 0b0011 := by decide
theorem test_decode_polyPress : decode 0b010100010#9 = .polyPress 0b0010 := by decide
theorem test_decode_cc : decode 0b010110001#9 = .cc 0b0001 := by decide
theorem test_decode_progChg : decode 0b011000101#9 = .progChg 0b0101 := by decide
theorem test_decode_chanPress : decode 0b011011111#9 = .chanPress 0b1111 := by decide
theorem test_decode_pitchBend : decode 0b011100000#9 = .pitchBend 0b0000 := by decide
theorem test_decode_systemCommon :
    decode 0b011110000#9 = .sox ∧ decode 0b011110001#9 = .sc1 ∧ decode 0b011110010#9 = .sc2 ∧
    decode 0b011110011#9 = .sc3 ∧ decode 0b011110100#9 = .sc4 ∧ decode 0b011110101#9 = .sc5 ∧
    decode 0b011110110#9 = .sc6 ∧ decode 0b011110111#9 = .eox := by decide
theorem test_decode_realTime :
    decode 0b011111000#9 = .rt0 ∧ decode 0b011111001#9 = .rt1 ∧ decode 0b011111010#9 = .rt2 ∧
    decode 0b011111011#9 = .rt3 ∧ decode 0b011111100#9 = .rt4 ∧ decode 0b011111101#9 = .rt5 ∧
    decode 0b011111110#9 = .rt6 ∧ decode 0b011111111#9 = .rt7 := by decide
theorem test_decode_reset : decode 0b100000000#9 = .reset ∧ decode 0b110100101#9 = .reset := by decide

/-- The rows of the table do not overlap: no word lies in two (R62). -/
theorem test_rows_do_not_overlap :
    opcodeTable.Pairwise (fun a b => a.pattern &&& b.mask ≠ b.pattern &&& a.mask) := by decide

/-- The first operation after reset runs (R242). -/
theorem test_first_step_after_reset :
    after (step (State.reset.withFetchWord 16 0x0F6)) =
      some (Parser.reset, some (.fed (some (.systemCommon 6 none)))) := by decide

/-! ## Channel Voice status bytes (P1, V10, V11, E6) -/

theorem test_noteOff_aborts_noteOn : after (exec (.noteOff 0) (st 4 .legacy (assembling .noteOn 0 (some 0x40)))) =
    some (assembling .noteOff 0 none, some (.fed none)) := by decide
theorem test_noteOn_from_reset : after (exec (.noteOn 2) (st 4 .legacy Parser.reset)) =
    some (assembling .noteOn 2 none, some (.fed none)) := by decide
theorem test_polyPress_from_reset : after (exec (.polyPress 2) (st 4 .legacy Parser.reset)) =
    some (assembling .polyPressure 2 none, some (.fed none)) := by decide
theorem test_cc_from_reset : after (exec (.cc 1) (st 3 .legacy Parser.reset)) =
    some (assembling .controlChange 1 none, some (.fed none)) := by decide
theorem test_progChg_aborts_noteOn : after (exec (.progChg 3) (st 4 .legacy (assembling .noteOn 0 none))) =
    some (assembling .programChange 3 none, some (.fed none)) := by decide
theorem test_chanPress_from_reset : after (exec (.chanPress 15) (st 4 .legacy Parser.reset)) =
    some (assembling .channelPressure 15 none, some (.fed none)) := by decide
theorem test_pitchBend_from_reset : after (exec (.pitchBend 15) (st 4 .legacy Parser.reset)) =
    some (assembling .pitchBend 15 none, some (.fed none)) := by decide

/-- P4 under Legacy: 0xC2 is the third payload byte. -/
theorem test_progChg_is_payload_under_legacy :
    after (exec (.progChg 2) (st 4 .legacy (collecting none [0x01, 0x02]))) =
      some (collecting none [0x01, 0x02, 0xC2], some (.fed none)) := by decide

/-- P4 under AbortOnStatus: 0xC2 starts its message. -/
theorem test_noteOn_aborts_full_sysEx :
    after (exec (.noteOn 0) (st 4 .abortOnStatus (collecting none [0x01, 0x02, 0x03, 0x04]))) =
      some (assembling .noteOn 0 none, some (.fed none)) := by decide

/-! ## Data bytes (V14, P1, V7, V2, X2, X3) -/

theorem test_data_orphan : after (exec (.data 0x40) (st 4 .legacy Parser.reset)) =
    some (Parser.reset, some (.fed none)) := by decide
theorem test_data_first : after (exec (.data 0x3C) (st 4 .legacy (assembling .noteOn 2 none))) =
    some (assembling .noteOn 2 (some 0x3C), some (.fed none)) := by decide
theorem test_data_second_normalised : after (exec (.data 0x00) (st 4 .legacy (assembling .noteOn 15 (some 0x3C)))) =
    some (idleWith (some (.noteOn, 15)), some (.fed (some (.channelVoice .noteOff 15 0x3C (some 0x00))))) := by decide
theorem test_data_second_kept : after (exec (.data 0x00) (st 4 .legacy (assembling .polyPressure 2 (some 0x40)))) =
    some (idleWith (some (.polyPressure, 2)), some (.fed (some (.channelVoice .polyPressure 2 0x40 (some 0x00))))) := by
  decide
theorem test_data_one_byte_kind : after (exec (.data 0x00) (st 4 .legacy (assembling .programChange 0 none))) =
    some (idleWith (some (.programChange, 0)), some (.fed (some (.channelVoice .programChange 0 0x00 none)))) := by
  decide
theorem test_data_running_status : after (exec (.data 0x3E) (st 4 .legacy (idleWith (some (.noteOn, 2))))) =
    some (assembling .noteOn 2 (some 0x3E), some (.fed none)) := by decide
theorem test_data_running_status_one_byte : after (exec (.data 0x0B) (st 4 .legacy (idleWith (some (.programChange, 5))))) =
    some (idleWith (some (.programChange, 5)), some (.fed (some (.channelVoice .programChange 5 0x0B none)))) := by
  decide
theorem test_data_fills_buffer : after (exec (.data 0x04) (st 4 .legacy (collecting none [0x01, 0x02, 0x03]))) =
    some (collecting none [0x01, 0x02, 0x03, 0x04], some (.fed none)) := by decide
theorem test_data_overflows : after (exec (.data 0x05) (st 4 .legacy (collecting none [0x01, 0x02, 0x03, 0x04]))) =
    some (Parser.reset, some (.fed none)) := by decide

/-! ## System Common (S1 to S8, X1, X2, X6, X9, X13, X14, E5) -/

theorem test_sox_aborts_and_keeps_rs : after (exec .sox (st 4 .legacy (assembling .noteOn 0 (some 0x40)))) =
    some (collecting (some (.noteOn, 0)) [], some (.fed none)) := by decide
theorem test_sox_restarts : after (exec .sox (st 4 .abortOnStatus (collecting none [0x01]))) =
    some (collecting none [], some (.fed none)) := by decide
theorem test_sc1 : after (exec .sc1 (st 4 .legacy Parser.reset)) =
    some (Parser.reset, some (.fed (some (.systemCommon 1 none)))) := by decide
theorem test_sc2 : after (exec .sc2 (st 4 .legacy (idleWith (some (.noteOn, 0))))) =
    some (idleWith (some (.noteOn, 0)), some (.fed (some (.systemCommon 2 none)))) := by decide
theorem test_sc3 : after (exec .sc3 (st 4 .legacy (assembling .programChange 1 none))) =
    some (idleWith (some (.programChange, 1)), some (.fed (some (.systemCommon 3 none)))) := by decide
theorem test_sc4 : after (exec .sc4 (st 4 .legacy Parser.reset)) =
    some (Parser.reset, some (.fed (some (.systemCommon 4 none)))) := by decide
theorem test_sc5 : after (exec .sc5 (st 4 .legacy Parser.reset)) =
    some (Parser.reset, some (.fed (some (.systemCommon 5 none)))) := by decide
theorem test_sc6 : after (exec .sc6 (st 4 .abortOnStatus (collecting none [0x01]))) =
    some (Parser.reset, some (.fed (some (.systemCommon 6 none)))) := by decide
theorem test_eox_delivers_full_buffer :
    after (exec .eox (st 4 .legacy (collecting none [0x01, 0x02, 0x03, 0x04]))) =
      some (Parser.reset, some (.fed (some (.systemCommon 0 (some [0x01, 0x02, 0x03, 0x04]))))) := by decide
theorem test_eox_outside : after (exec .eox (st 4 .legacy Parser.reset)) =
    some (Parser.reset, some (.fed (some (.systemCommon 7 none)))) := by decide

/-! ## Real-Time (T1, T3, T5, X12) and reset (Z1, Z2) -/

theorem test_rt0_in_full_sysEx : after (exec .rt0 (st 4 .legacy (collecting none [0x01, 0x02, 0x03, 0x04]))) =
    some (collecting none [0x01, 0x02, 0x03, 0x04], some (.fed (some (.realTime 0)))) := by decide
theorem test_rt1 : after (exec .rt1 (st 4 .legacy Parser.reset)) =
    some (Parser.reset, some (.fed (some (.realTime 1)))) := by decide
theorem test_rt2 : after (exec .rt2 (st 4 .legacy (assembling .noteOn 0 (some 0x40)))) =
    some (assembling .noteOn 0 (some 0x40), some (.fed (some (.realTime 2)))) := by decide
theorem test_rt3 : after (exec .rt3 (st 4 .legacy Parser.reset)) =
    some (Parser.reset, some (.fed (some (.realTime 3)))) := by decide
theorem test_rt4 : after (exec .rt4 (st 4 .abortOnStatus (collecting none [0x01]))) =
    some (collecting none [0x01], some (.fed (some (.realTime 4)))) := by decide
theorem test_rt5 : after (exec .rt5 (st 4 .legacy Parser.reset)) =
    some (Parser.reset, some (.fed (some (.realTime 5)))) := by decide
theorem test_rt6 : after (exec .rt6 (st 4 .legacy (collecting none [0x01]))) =
    some (collecting none [0x01], some (.fed (some (.realTime 6)))) := by decide
theorem test_rt7_is_no_reset : after (exec .rt7 (st 4 .legacy (assembling .noteOn 0 (some 0x40)))) =
    some (assembling .noteOn 0 (some 0x40), some (.fed (some (.realTime 7)))) := by decide
theorem test_reset_discards_message : after (exec .reset (st 4 .legacy (assembling .noteOn 0 (some 0x40)))) =
    some (Parser.reset, some .resetDone) := by decide
theorem test_reset_discards_payload : after (exec .reset (st 4 .legacy (collecting (some (.noteOn, 0)) [0x01]))) =
    some (Parser.reset, some .resetDone) := by decide

/-! ## Names (R65, R66) and the build's wires (R67) -/

theorem test_names : systemCommonName 6 = some .tuneRequest ∧ systemCommonName 4 = none ∧
    realTimeName 7 = some .midiReset ∧ realTimeName 5 = none := by decide
theorem test_phase_bits : phaseBits .inSysEx = 0b11 := by decide
theorem test_port_shows_payload :
    (match exec .eox (st 4 .legacy (collecting none [0x01, 0x02])) with
      | .next t => (payloadPort t 0, payloadPort t 1)
      | _ => (0, 0)) = (0x01, 0x02) := by decide

/-! ## Witnesses: every statement's hypotheses hold together somewhere -/

/-- An instance in SysEx with one byte collected and room for exactly one more. -/
def midSysEx (pol : SysExStatusPolicy) : State := st 2 pol (collecting (some (.noteOn, 0)) [0x01])

/-- An instance in SysEx whose buffer is full. -/
def fullSysEx (pol : SysExStatusPolicy) : State := st 1 pol (collecting (some (.noteOn, 0)) [0x01])

theorem read_singleton (v : Byte) (i : Nat) : Memory.read i [(0, v)] = if i = 0 then some v else none := rfl

theorem collecting_inv (cap : Nat) (h : 1 ≤ cap) (pol : SysExStatusPolicy) :
    (st cap pol (collecting (some (.noteOn, 0)) [0x01])).Inv := by
  have hb : (st cap pol (collecting (some (.noteOn, 0)) [0x01])).parser.sxBuf = [(0, 0x01)] := rfl
  refine ⟨by simp [st, collecting], by simp [st, collecting], by simp [st, collecting], by simp [st, collecting],
    by simp [st, collecting], fun _ => ⟨h, fun i hi => ?_, fun i hi => ?_, rfl, rfl, rfl⟩, fun i v hv => ?_, ?_⟩
  · obtain rfl : i = 0 := Nat.lt_one_iff.1 hi
    exact ⟨0x01, rfl⟩
  · have hi : 1 ≤ i := hi
    rw [hb, read_singleton, if_neg (Nat.ne_of_gt hi)]
  · rw [hb, read_singleton] at hv
    split at hv
    · cases hv
      exact ⟨by decide, fun _ => by decide⟩
    · cases hv
  · rw [hb]
    exact List.pairwise_singleton _ _

theorem witness_StepRunsTheNextOperation : ({ State.reset with inputs := [0x0F8#9] } : State).inputs = [0x0F8#9] := rfl
theorem witness_StepWithNoOperationKeepsTheState : State.reset.inputs = [] := rfl
theorem witness_EveryWordNamesExactlyOneRow :
    (0x100#9 : OpWord).getLsbD 8 = true ∧ (0x0FF#9 : OpWord).getLsbD 8 = false := by decide
theorem witness_DecodeOfEncodeIsTheOperation : (Instr.data 0x7F).wellFormed = true := rfl
theorem witness_OnlyNineBitNumbersDecode : 511 < 512 ∧ 512 ≤ 512 := by decide
theorem witness_DataCountByKindAndNibble :
    kindOf 0xC#4 = some .programChange ∧ kindOf 0xD#4 = some .channelPressure ∧ kindOf 0x8#4 = some .noteOff ∧
    kindOf 0xE#4 = some .pitchBend := by decide
theorem witness_ChannelVoiceStatusStartsAMessage :
    (st 0 .legacy (assembling .noteOn 0 none)).parser.phase ≠ .inSysEx ∧
    (Instr.pitchBend 15, CVKind.pitchBend) ∈ [(Instr.pitchBend 15, CVKind.pitchBend)] := by decide
theorem witness_OrphanDataByteIsDropped :
    (st 4 .legacy Parser.reset).parser.phase = .idle ∧ (st 4 .legacy Parser.reset).parser.rs = none := by decide
theorem witness_DataByteUnderRunningStatus_one :
    (st 4 .legacy (idleWith (some (.programChange, 5)))).parser.phase = .idle ∧ dataCount .programChange = 1 := by decide
theorem witness_DataByteUnderRunningStatus_two :
    (st 4 .legacy (idleWith (some (.noteOn, 5)))).parser.phase = .idle ∧ dataCount .noteOn = 2 := by decide
theorem witness_FirstDataByteAfterStatus :
    (st 4 .legacy (assembling .noteOn 0 none)).parser.phase = .awaitingData0 ∧ dataCount .noteOn = 2 ∧
    (st 4 .legacy (assembling .channelPressure 15 none)).parser.phase = .awaitingData0 ∧
    dataCount .channelPressure = 1 := by decide
theorem witness_SecondDataByteCompletesTheMessage :
    (st 4 .legacy (assembling .noteOn 0 (some 0))).parser.phase = .awaitingData1 ∧
    (st 4 .legacy (assembling .noteOn 0 (some 0))).parser.pendD0 = some 0 := by decide
theorem witness_ReadingNoValueFaults :
    exec (.data 0) (st 4 .legacy { Parser.reset with phase := .awaitingData0 }) = .fault .noPendingKind ∧
    exec (.data 0) (st 4 .legacy { Parser.reset with phase := .awaitingData1, pendKind := some .noteOn }) =
      .fault .noPendingChannel ∧
    exec (.data 0) (st 4 .legacy { assembling .noteOn 0 none with phase := .awaitingData1 }) = .fault .noPendingData0 ∧
    exec .eox (st 4 .legacy { Parser.reset with phase := .inSysEx, sxLen := 4 }) = .fault .noBufferByte :=
  ⟨rfl, rfl, rfl, rfl⟩
theorem witness_SysExStartOutsideSysEx : (st 0 .legacy Parser.reset).parser.phase ≠ .inSysEx := by decide
theorem witness_SystemCommonOutsideSysExIsEmitted :
    (st 4 .legacy (assembling .noteOn 0 (some 1))).parser.phase ≠ .inSysEx ∧ (Instr.eox, 7#3) ∈ [(Instr.eox, 7#3)] := by
  decide
theorem witness_SysExEndDeliversTheBuffer :
    (fullSysEx .legacy).parser.phase = .inSysEx ∧ (fullSysEx .legacy).parser.sxLen ≤ (fullSysEx .legacy).build.capacity ∧
    ∀ i, i < (fullSysEx .legacy).parser.sxLen → ((fullSysEx .legacy).parser.sxBuf.read i).isSome = true := by decide
theorem witness_PayloadByteIsStoredVerbatim :
    0xF6#8 ≤ 0xF6#8 ∧ (midSysEx .legacy).build.policy = .legacy ∧ (midSysEx .legacy).parser.phase = .inSysEx ∧
    (midSysEx .legacy).parser.sxLen < (midSysEx .legacy).build.capacity ∧
    0x7F#8 ≤ 0x7F#8 ∧ (midSysEx .abortOnStatus).parser.sxLen < (midSysEx .abortOnStatus).build.capacity := by decide
theorem witness_PayloadByteAtCapacityDropsTheMessage :
    (fullSysEx .legacy).parser.phase = .inSysEx ∧ (fullSysEx .legacy).parser.sxLen = (fullSysEx .legacy).build.capacity ∧
    (st 0 .legacy (collecting none [])).parser.sxLen = (st 0 .legacy (collecting none [])).build.capacity := by decide
theorem witness_PolicyAbortRestartsWithTheByte :
    (fullSysEx .abortOnStatus).parser.phase = .inSysEx ∧ (fullSysEx .abortOnStatus).build.policy = .abortOnStatus := by
  decide
theorem witness_RealTimeByteEmitsAndChangesNothing : (Instr.rt7, 7#3) ∈ [(Instr.rt0, 0#3), (Instr.rt7, 7#3)] := by decide
theorem witness_EveryStepKeepsTheInvariants :
    (State.load [0x0F7#9] (midSysEx .legacy)).Inv ∧ ∃ t, step (State.load [0x0F7#9] (midSysEx .legacy)) = .next t :=
  ⟨collecting_inv 2 (by decide) .legacy, _, rfl⟩
theorem witness_EveryOperationCompletes : (fullSysEx .abortOnStatus).Inv := collecting_inv 1 (by decide) .abortOnStatus
theorem witness_EveryRunIsSafe : (midSysEx .legacy).Inv := collecting_inv 2 (by decide) .legacy

/-- For the statements whose hypothesis is that `exec` answers a next state. -/
theorem witness_exec_answers :
    (∃ t, exec (.noteOn 0) (midSysEx .legacy) = .next t) ∧ (∃ t, exec (.noteOn 0) (midSysEx .abortOnStatus) = .next t) ∧
    (∃ t, exec (.data 0) (fullSysEx .legacy) = .next t) ∧ (∃ t, exec .reset (midSysEx .legacy) = .next t) ∧
    (∃ t, exec .sox (st 4 .legacy Parser.reset) = .next t) ∧ (∃ t, exec .eox (midSysEx .legacy) = .next t) :=
  ⟨⟨_, rfl⟩, ⟨_, rfl⟩, ⟨_, rfl⟩, ⟨_, rfl⟩, ⟨_, rfl⟩, ⟨_, rfl⟩⟩
theorem witness_EachOperationReturnsOnce : Instr.reset = .reset ∧ Instr.rt0 ≠ .reset := by decide
theorem witness_OnlyChannelVoiceAndResetWriteRunningStatus :
    Instr.noteOn 0 = cvInstr .noteOn 0 ∧
    ((midSysEx .legacy).parser.phase = .inSysEx ∧ (midSysEx .legacy).build.policy = .legacy) ∧
    ¬ ((midSysEx .abortOnStatus).parser.phase = .inSysEx ∧ (midSysEx .abortOnStatus).build.policy = .legacy) ∧
    ∀ ch, Instr.sox ≠ cvInstr .noteOn ch := by decide
theorem witness_EmittedEventsAreWellFormed :
    (midSysEx .legacy).Inv ∧ ∃ t, exec .eox (midSysEx .legacy) = .next t ∧
      t.returned = (midSysEx .legacy).returned ++ [.fed (some (.systemCommon 0#3 (some [0x01])))] :=
  ⟨collecting_inv 2 (by decide) .legacy, _, rfl, rfl⟩
theorem witness_EventsComeFromTheirBytes :
    (∃ t, exec (.data 0) (st 0 .legacy (assembling .noteOn 0 (some 1))) = .next t ∧
      t.returned = [.fed (some (.channelVoice .noteOff 0 1 (some 0)))]) ∧
    (∃ t, exec .sc5 (st 0 .legacy Parser.reset) = .next t ∧ t.returned = [.fed (some (.systemCommon 5 none))]) ∧
    (∃ t, exec .rt7 (fullSysEx .legacy) = .next t ∧ t.returned = [.fed (some (.realTime 7))]) :=
  ⟨⟨_, rfl, rfl⟩, ⟨_, rfl, rfl⟩, ⟨_, rfl, rfl⟩⟩
theorem witness_StatusByteForgetsTheMessageInProgress :
    0x80#8 ≤ 0x80#8 ∧ 0x80#8 ≤ 0xF7#8 ∧ (st 4 .legacy (assembling .noteOn 0 none)).parser.phase ≠ .inSysEx ∧
    (st 4 .legacy (idleWith (some (.noteOn, 0)))).parser.phase ≠ .inSysEx ∧
    (st 4 .legacy (assembling .noteOn 0 none)).parser.rs = (st 4 .legacy (idleWith (some (.noteOn, 0)))).parser.rs := by
  decide
theorem witness_EnteringAndLeavingSysEx :
    (∃ t, exec .sox (st 0 .legacy Parser.reset) = .next t ∧ t.parser.phase = .inSysEx) ∧
    (∃ t, exec (.data 0) (fullSysEx .legacy) = .next t ∧ t.parser.phase ≠ .inSysEx) :=
  ⟨⟨_, rfl, rfl⟩, ⟨_, rfl, by decide⟩⟩
theorem witness_InstancesDoNotInteract :
    ∃ a b, (0 : Nat) ≠ 1 ∧ stepInstance 0 [State.load [0x090#9] (st 4 .legacy Parser.reset), midSysEx .legacy] = .next a ∧
      stepInstance 1 a = .next b :=
  ⟨_, _, by decide, rfl, rfl⟩
theorem witness_SysExStreamDeliversItsPayload :
    (st 2 .legacy Parser.reset).parser.phase ≠ .inSysEx ∧
    (∀ b, b ∈ [0x01#8, 0xFE#8, 0xF6#8] → 0xF8#8 ≤ b ∨ (b ≤ 0xF6#8 ∧ (b ≤ 0x7F#8 ∨ (st 2 .legacy Parser.reset).build.policy = .legacy))) ∧
    ([0x01#8, 0xFE#8, 0xF6#8].filter (fun b => decide (b ≤ 0xF6#8))).length ≤ (st 2 .legacy Parser.reset).build.capacity := by
  decide
theorem witness_OversizedSysExYieldsNoExclusiveEvent :
    (fullSysEx .legacy).parser.sxLen ≤ (fullSysEx .legacy).build.capacity ∧
    (fullSysEx .legacy).parser.sxLen + [0xF6#8].length = (fullSysEx .legacy).build.capacity + 1 ∧
    (∀ b, b ∈ [0xF6#8] → b ≤ 0xF6#8 ∧ (b ≤ 0x7F#8 ∨ (fullSysEx .legacy).build.policy = .legacy)) := by decide
theorem witness_RealTimeBytesAreTransparent :
    ∃ t, run 3 ((midSysEx .legacy).load [0x0F8#9, 0x002#9, 0x0F7#9]) = .next t := ⟨_, rfl⟩
theorem witness_RunningStatusDecodesEveryMessage :
    (st 0 .legacy (idleWith (some (.noteOn, 3)))).parser.phase = .idle ∧ dataCount .noteOn = 2 ∧
    dataCount .channelPressure = 1 ∧
    bytesWords ([(0x40#7, 0x00#7)].flatMap (fun p => [dataByteOf p.1, dataByteOf p.2])) = [0x040#9, 0x000#9] := by decide
theorem witness_DataAfterSystemCommonIsNotCollected :
    bytesWords (scByte 2 :: [0x10#7, 0x20#7].map dataByteOf) = [0x0F2#9, 0x010#9, 0x020#9] ∧
    (st 4 .legacy Parser.reset).parser.rs = none ∧
    (st 4 .legacy (idleWith (some (.noteOn, 0)))).parser.rs = some (.noteOn, 0) := by decide
theorem witness_PayloadPortShowsThePayload : (midSysEx .legacy).Inv ∧ (midSysEx .legacy).parser.phase = .inSysEx :=
  ⟨collecting_inv 2 (by decide) .legacy, rfl⟩
theorem witness_SystemCommonDrivesChannelZero : 7#3 ≠ 0#3 ∧ (st 4 .legacy Parser.reset).parser.phase ≠ .inSysEx := by
  decide

end Sys2Proof.Tests
end

section
/-! PROOFS of the scope family (00_scope.md): what an operation returns to the host. -/

namespace Sys2Proof.Machine

/-- A fed byte never decodes to `reset` (R61, R62). -/
theorem decodeByte_ne_reset (b : Byte) : decodeByte b ≠ .reset := by
  revert b
  decide

/-- A Channel Voice status operation is no `reset` (R62). -/
theorem cvInstr_ne_reset (k : CVKind) (ch : Channel) : cvInstr k ch ≠ .reset := by
  rw [← decodeByte_cvByte]
  exact decodeByte_ne_reset _

/-- A completed operation adds one result: `reset` the empty one (R1), a `feed` an optional event (R3). -/
theorem effect_returned {i : Instr} {s t : State} (h : Effect s i t) :
    (i = .reset ∧ t.returned = s.returned ++ [.resetDone]) ∨
      (i ≠ .reset ∧ ∃ e, t.returned = s.returned ++ [.fed e]) := by
  cases h with
  | wasReset => exact .inl ⟨rfl, rfl⟩
  | orphan | runningWhole | runningFirst | whole | first | second | ended | opened =>
    exact .inr ⟨Instr.noConfusion, _, rfl⟩
  | appended | overflowed | common | realTime => exact .inr ⟨decodeByte_ne_reset _, _, rfl⟩
  | started k ch => exact .inr ⟨cvInstr_ne_reset k ch, _, rfl⟩

/-- Settles O31, by the cases of a completed operation. -/
theorem eachOperationReturnsOnce : Obligations.EachOperationReturnsOnce := by
  intro i s t h
  rcases effect_returned (exec_effect h) with ⟨rfl, hret⟩ | ⟨hne, hret⟩
  · exact ⟨fun _ => hret, fun hne => absurd rfl hne⟩
  · exact ⟨fun hi => absurd hi hne, fun _ => hret⟩

end Sys2Proof.Machine
end

section
/-! PROOFS of the state family (10_state.md): what each action leaves in the registers of R21's invariants, that an
operation completes where they hold, where a read of no value stops (R22), and which operations write running status
(R12). -/

namespace Sys2Proof.Machine

/-! ## Each action keeps the invariants -/

/-- The reset state meets the invariants for every `C` and either policy (R21, R23). -/
theorem inv_reset (b : BuildParams) : Inv b Parser.reset := inv_abort b Parser.reset

/-- A Channel Voice status byte leaves a message with no data byte yet (R101). -/
theorem inv_startCV (b : BuildParams) (p : Parser) (k : CVKind) (ch : Channel) :
    Inv b { p.abort with
      rs := some (k, ch), pendKind := some k, pendChan := some ch, pendD0 := none, phase := .awaitingData0 } where
  assembling _ := ⟨k, ch, rfl, rfl, rfl⟩
  secondDue := by simp
  firstDue := by simp
  idleClear := by simp
  bufferClear := by simp
  bufferFilled := by simp
  bufferBytes := by simp
  bufferForm := empty_wf

/-- 0xF0 leaves an empty payload (R131). -/
theorem inv_startSysEx (b : BuildParams) (p : Parser) :
    Inv b { p.abort with sxLen := 0, phase := .inSysEx } where
  assembling := by simp
  secondDue := by simp
  firstDue := by simp
  idleClear := by simp
  bufferClear := by simp
  bufferFilled := by simp
  bufferBytes := by simp
  bufferForm := empty_wf

/-- The first data byte of a two-data-byte kind that running status names leaves the second one due (R111, R112). -/
theorem inv_firstDataByte {b : BuildParams} {p : Parser} (h : Inv b p) (hp : p.phase ≠ .inSysEx) {k : CVKind}
    {ch : Channel} (hr : p.rs = some (k, ch)) (hk : dataCount k = 2) (d : Data7) :
    Inv b { p with pendKind := some k, pendChan := some ch, pendD0 := some d, phase := .awaitingData1 } where
  assembling _ := ⟨k, ch, rfl, rfl, hr⟩
  secondDue _ := ⟨⟨d, rfl⟩, by simp [hk]⟩
  firstDue := by simp
  idleClear := by simp
  bufferClear _ := h.bufferClear hp
  bufferFilled := by simp
  bufferBytes := h.bufferBytes
  bufferForm := h.bufferForm

/-- A payload byte stored at entry `sx_len` below `C` leaves the entries below the new length filled, the others empty
(R162). -/
theorem inv_append {b : BuildParams} {p : Parser} (h : Inv b p) (hp : p.phase = .inSysEx)
    (hl : p.sxLen < b.capacity) {v : Byte} (hv : v ≤ 0xF6#8) (hq : v ≤ 0x7F#8 ∨ b.policy = .legacy) :
    Inv b { p with sxLen := p.sxLen + 1, sxBuf := p.sxBuf.write p.sxLen v } := by
  obtain ⟨_, hfilled, hempty, hpend⟩ := h.bufferFilled hp
  exact {
    assembling := by simp [hp]
    secondDue := by simp [hp]
    firstDue := by simp [hp]
    idleClear := by simp [hp]
    bufferClear := fun hne => absurd hp hne
    bufferFilled := by
      refine fun _ => ⟨hl, fun i hi => ?_, fun i hi => ?_, hpend⟩
      · rcases Nat.lt_succ_iff_lt_or_eq.1 hi with hi | rfl
        · simpa only [read_write_other (Nat.ne_of_lt hi)] using hfilled i hi
        · exact ⟨v, read_write_same _ _ _⟩
      · simpa only [read_write_other (Nat.ne_of_gt hi)] using hempty i (Nat.le_of_succ_le hi)
    bufferBytes := by
      intro i w hw
      by_cases hi : i = p.sxLen
      · obtain rfl : v = w := by simpa [hi] using hw
        exact ⟨hv, fun hpol => hq.resolve_right (by simp [hpol])⟩
      · exact h.bufferBytes i w (by simpa only [read_write_other hi] using hw)
    bufferForm := write_wf h.bufferForm _ _ }

/-- A completed operation keeps the invariants (R21). -/
theorem effect_keeps_inv {i : Instr} {s t : State} (h : Effect s i t) (hs : s.Inv) : t.Inv := by
  cases h with
  | orphan | realTime => exact hs
  | runningWhole | whole | second | overflowed | ended | common => exact inv_abort _ _
  | runningFirst d k ch hp hr hk => exact inv_firstDataByte hs (by simp [hp]) hr (dataCount_of_ne_one hk) d
  | first d k ch hp hk hc hn =>
    obtain ⟨k', ch', hk', hc', hr⟩ := hs.assembling (.inl hp)
    obtain rfl : k = k' := Option.some.inj (hk.symm.trans hk')
    obtain rfl : ch = ch' := Option.some.inj (hc.symm.trans hc')
    have key := inv_firstDataByte hs (by simp [hp]) hr (dataCount_of_ne_one hn) d
    rwa [← hk, ← hc] at key
  | appended b hp hb hq hl => exact inv_append hs hp hl hb hq
  | started k ch => exact inv_startCV _ _ k ch
  | opened => exact inv_startSysEx _ _
  | wasReset => exact inv_reset _

/-! ## An operation completes where the invariants hold -/

/-- A data byte outside SysEx finds every value it reads (R22, INV1, INV2). -/
theorem execData_total {s : State} (hs : s.Inv) (d : Data7) : ∃ t, execData d s = .next t := by
  cases hp : s.parser.phase with
  | idle =>
    simp only [execData, hp]
    rcases idleData_cases d s with ⟨_, e⟩ | ⟨_, _, _, _, e⟩ | ⟨_, _, _, _, e⟩ <;> exact ⟨_, e⟩
  | awaitingData0 =>
    obtain ⟨k, ch, hk, hc, _⟩ := hs.assembling (.inl hp)
    simp only [execData, hp, dataAD0_of_some hk hc]
    split <;> exact ⟨_, rfl⟩
  | awaitingData1 =>
    obtain ⟨k, ch, hk, hc, _⟩ := hs.assembling (.inr hp)
    obtain ⟨⟨d0, h0⟩, _⟩ := hs.secondDue hp
    simp only [execData, hp, dataAD1_of_some hk hc h0]
    exact ⟨_, rfl⟩
  | inSysEx =>
    simp only [execData, hp]
    exact sysExByte_total _ _

/-- A Channel Voice status byte completes in every state (R100). -/
theorem cvStatus_total (k : CVKind) (ch : Channel) (s : State) : ∃ t, cvStatus k ch s = .next t := by
  rcases cvStatus_cases k ch s with ⟨_, _, e⟩ | ⟨_, e⟩ <;> rw [e]
  · exact sysExByte_total _ _
  · exact ⟨_, rfl⟩

/-- A System Common byte completes: 0xF7 finds the payload filled (R130, INV6). -/
theorem scStatus_total {s : State} (hs : s.Inv) (c : Code) : ∃ t, scStatus c s = .next t := by
  rcases scStatus_cases c s with ⟨hp, _, e⟩ | ⟨_, _, _, e⟩ | ⟨_, e⟩ <;> rw [e]
  · obtain ⟨hcap, hfilled, _⟩ := hs.bufferFilled hp
    obtain ⟨_, _, _, h⟩ := endSysEx_of_filled hcap hfilled
    exact ⟨_, h⟩
  · exact sysExByte_total _ _
  · rcases scIdle_cases c s.abort with ⟨_, e⟩ | ⟨_, e⟩ <;> exact ⟨_, e⟩

/-- Every operation completes in every state that meets the invariants (R220). -/
theorem exec_total_of_inv {s : State} (hs : s.Inv) (i : Instr) : ∃ t, exec i s = .next t := by
  rcases instr_cases i with ⟨d, rfl⟩ | ⟨k, ch, rfl⟩ | ⟨c, rfl⟩ | ⟨c, rfl⟩ | rfl
  · exact execData_total hs d
  · rw [exec_cvInstr]
    exact cvStatus_total k ch s
  · rw [exec_scByte]
    exact scStatus_total hs c
  · rw [exec_rtByte]
    exact ⟨_, rfl⟩
  · exact ⟨_, exec_reset s⟩

/-! ## Steps and runs -/

/-- The invariants speak of the parameters and the registers alone, so loading operations keeps them. -/
theorem load_inv {s : State} (hs : s.Inv) (ws : List OpWord) : (s.load ws).Inv := hs

/-- Loading the operations that are waiting already changes nothing. -/
theorem load_self {s : State} {ws : List OpWord} (h : s.inputs = ws) : s.load ws = s := by
  subst h
  rfl

/-- With no operation waiting a step answers the same state (log entry 4). -/
theorem step_of_no_inputs {s : State} (h : s.inputs = []) : step s = .next s := by
  simp [step, fetch, h, awaitOperation]

/-- A step that answers a next state was idle or ran the next operation (R48). -/
theorem step_next {s t : State} (h : step s = .next t) :
    t = s ∨ ∃ w ws, exec (decode w) (s.load ws) = .next t := by
  cases hin : s.inputs with
  | nil =>
    rw [step_of_no_inputs hin] at h
    cases h
    exact .inl rfl
  | cons w ws =>
    rw [← load_self hin, step_load_cons] at h
    exact .inr ⟨w, ws, h⟩

/-- An operation takes none of the operations waiting and adds none (R48). -/
theorem effect_inputs {i : Instr} {s t : State} (h : Effect s i t) : t.inputs = s.inputs := by
  cases h <;> rfl

/-- Any list of operations runs to its end from a state that meets the invariants, and keeps them (R21, R220). -/
theorem run_load_keeps_inv {s : State} (hs : s.Inv) (ws : List OpWord) :
    ∃ t, run ws.length (s.load ws) = .next t ∧ t.inputs = [] ∧ t.Inv := by
  induction ws generalizing s with
  | nil => exact ⟨_, rfl, rfl, load_inv hs _⟩
  | cons w ws ih =>
    obtain ⟨u, hu⟩ := exec_total_of_inv (load_inv hs ws) (decode w)
    have hin : u.inputs = ws := effect_inputs (exec_effect hu)
    obtain ⟨t, hrun, ht⟩ := ih (effect_keeps_inv (exec_effect hu) (load_inv hs ws))
    rw [load_self hin] at hrun
    have hstep : step (s.load (w :: ws)) = .next u := (step_load_cons w ws s).trans hu
    exact ⟨t, (run_succ_of_next hstep).trans hrun, ht⟩

/-! ## Reads of no value (R22) -/

/-- A data byte with a message in progress and no pending kind stops (R22). -/
theorem exec_data_of_no_kind {s : State} (hp : s.parser.phase = .awaitingData0 ∨ s.parser.phase = .awaitingData1)
    (hk : s.parser.pendKind = none) (d : Data7) : exec (.data d) s = .fault .noPendingKind := by
  rcases hp with hp | hp
  · simp [exec, execData, hp, dataAD0, hk]
  · simp [exec, execData, hp, dataAD1, hk]

/-- A data byte with a message in progress, a kind and no channel stops (R22). -/
theorem exec_data_of_no_channel {s : State}
    (hp : s.parser.phase = .awaitingData0 ∨ s.parser.phase = .awaitingData1) {k : CVKind}
    (hk : s.parser.pendKind = some k) (hc : s.parser.pendChan = none) (d : Data7) :
    exec (.data d) s = .fault .noPendingChannel := by
  rcases hp with hp | hp
  · simp [exec, execData, hp, dataAD0, hk, hc]
  · simp [exec, execData, hp, dataAD1, hk, hc]

/-- A second data byte with no first one stops (R22). -/
theorem exec_data_of_no_data0 {s : State} (hp : s.parser.phase = .awaitingData1) {k : CVKind} {ch : Channel}
    (hk : s.parser.pendKind = some k) (hc : s.parser.pendChan = some ch) (h0 : s.parser.pendD0 = none) (d : Data7) :
    exec (.data d) s = .fault .noPendingData0 := by
  simp [exec, execData, hp, dataAD1, hk, hc, h0]

/-- 0xF7 in SysEx ends the message (R139, R161). -/
theorem exec_eox_inSysEx {s : State} (hp : s.parser.phase = .inSysEx) : exec .eox s = endSysEx s := by
  simp [exec, execEox, scStatus, hp]

/-- The end of SysEx stops on an entry of the payload that holds no value (R22). -/
theorem endSysEx_of_none {s : State} (hcap : s.parser.sxLen ≤ s.build.capacity)
    (h : ∃ i, i < s.parser.sxLen ∧ s.parser.sxBuf.read i = none) : endSysEx s = .fault .noBufferByte := by
  obtain ⟨i, hi, hnone⟩ := h
  have hread := memReadRange_of_none (cap := s.build.capacity) (m := s.parser.sxBuf) s.parser.sxLen 0 (by omega)
    ⟨i, Nat.zero_le i, by omega, hnone⟩
  simp [endSysEx, hread]

/-! ## Running status (R12) -/

/-- Different bytes decode to different operations (R62). -/
theorem decodeByte_injective : Function.Injective decodeByte :=
  Function.LeftInverse.injective byteFed_decodeByte

/-- A Channel Voice status byte lies in 0x80..0xEF (R60). -/
theorem cvByte_in_cvRange (k : CVKind) (ch : Channel) : 0x80#8 ≤ cvByte k ch ∧ cvByte k ch ≤ 0xEF#8 := by
  cases k <;> revert ch <;> decide

/-- A byte outside 0x80..0xEF is no Channel Voice status operation (R60, R62). -/
theorem decodeByte_ne_cvInstr {b : Byte} (hb : ¬ (0x80#8 ≤ b ∧ b ≤ 0xEF#8)) (k : CVKind) (ch : Channel) :
    decodeByte b ≠ cvInstr k ch := by
  rw [← decodeByte_cvByte]
  intro h
  exact hb (decodeByte_injective h ▸ cvByte_in_cvRange k ch)

/-- A data byte lies below the range of Channel Voice status bytes (R60). -/
theorem data_ne_cvInstr (d : Data7) (k : CVKind) (ch : Channel) : Instr.data d ≠ cvInstr k ch := by
  have hb : ¬ (0x80#8 ≤ dataByteOf d ∧ dataByteOf d ≤ 0xEF#8) := by
    revert d
    decide
  rw [← decodeByte_dataByteOf]
  exact decodeByte_ne_cvInstr hb k ch

/-- A System Common byte lies above the range of Channel Voice status bytes (R60). -/
theorem scInstr_ne_cvInstr (c : Code) (k : CVKind) (ch : Channel) : decodeByte (scByte c) ≠ cvInstr k ch := by
  have hb : ¬ (0x80#8 ≤ scByte c ∧ scByte c ≤ 0xEF#8) := by
    revert c
    decide
  exact decodeByte_ne_cvInstr hb k ch

/-- A Real-Time byte lies above the range of Channel Voice status bytes (R60). -/
theorem rtInstr_ne_cvInstr (c : Code) (k : CVKind) (ch : Channel) : decodeByte (rtByte c) ≠ cvInstr k ch := by
  have hb : ¬ (0x80#8 ≤ rtByte c ∧ rtByte c ≤ 0xEF#8) := by
    revert c
    decide
  exact decodeByte_ne_cvInstr hb k ch

/-- A Channel Voice status operation names its kind and channel (R63). -/
theorem cvInstr_inj {k k' : CVKind} {ch ch' : Channel} (h : cvInstr k ch = cvInstr k' ch') : k = k' ∧ ch = ch' := by
  cases k <;> cases k' <;> cases h <;> exact ⟨rfl, rfl⟩

/-- In SysEx a payload byte that is a Channel Voice status byte is one by the policy `Legacy` (R164). -/
theorem legacy_of_cv_payload {b : Byte} {q : SysExStatusPolicy} (hq : b ≤ 0x7F#8 ∨ q = .legacy) {k : CVKind}
    {ch : Channel} (h : decodeByte b = cvInstr k ch) : q = .legacy := by
  refine hq.resolve_left fun hb => decodeByte_ne_cvInstr (fun hr => ?_) k ch h
  bv_omega

/-- What a completed operation does to running status: a Channel Voice status byte taken as one sets it, `reset` clears
it, and everything else, payload under `Legacy` included, leaves it (R12, 92 D5). -/
theorem effect_rs {i : Instr} {s t : State} (h : Effect s i t) :
    (∃ k ch, i = cvInstr k ch ∧ ¬ (s.parser.phase = .inSysEx ∧ s.build.policy = .legacy) ∧
      t.parser.rs = some (k, ch)) ∨
    (i = .reset ∧ t.parser.rs = none) ∨
    (i ≠ .reset ∧ (∀ k ch, i = cvInstr k ch → s.parser.phase = .inSysEx ∧ s.build.policy = .legacy) ∧
      t.parser.rs = s.parser.rs) := by
  cases h with
  | started k ch hn => exact .inl ⟨k, ch, rfl, hn, rfl⟩
  | wasReset => exact .inr (.inl ⟨rfl, rfl⟩)
  | orphan d | runningWhole d | runningFirst d | whole d | first d | second d =>
    exact .inr (.inr ⟨Instr.noConfusion, fun k ch hi => absurd hi (data_ne_cvInstr d k ch), rfl⟩)
  | appended b hp _ hq | overflowed b hp _ hq =>
    exact .inr (.inr ⟨decodeByte_ne_reset b, fun _ _ hi => ⟨hp, legacy_of_cv_payload hq hi⟩, rfl⟩)
  | ended => exact .inr (.inr ⟨Instr.noConfusion, fun k ch hi => absurd hi (scInstr_ne_cvInstr 7 k ch), rfl⟩)
  | opened => exact .inr (.inr ⟨Instr.noConfusion, fun k ch hi => absurd hi (scInstr_ne_cvInstr 0 k ch), rfl⟩)
  | common c => exact .inr (.inr ⟨decodeByte_ne_reset _, fun k ch hi => absurd hi (scInstr_ne_cvInstr c k ch), rfl⟩)
  | realTime c => exact .inr (.inr ⟨decodeByte_ne_reset _, fun k ch hi => absurd hi (rtInstr_ne_cvInstr c k ch), rfl⟩)

/-! ## The statements -/

/-- Settles O27: a step was idle or a completed operation, and `effect_keeps_inv` covers the latter. -/
theorem everyStepKeepsTheInvariants : Obligations.EveryStepKeepsTheInvariants := by
  intro s t hs h
  rcases step_next h with rfl | ⟨_, ws, h⟩
  · exact hs
  · exact effect_keeps_inv (exec_effect h) (load_inv hs ws)

/-- Settles O28, by induction on the operations issued. -/
theorem reachableStatesMeetTheInvariants : Obligations.ReachableStatesMeetTheInvariants :=
  fun b => run_load_keeps_inv (s := { State.reset with build := b }) (inv_reset b)

/-- Settles O17: each clause is the first read of no value that its operation meets. -/
theorem readingNoValueFaults : Obligations.ReadingNoValueFaults := by
  refine fun d s => ⟨fun hp hk => exec_data_of_no_kind hp hk d, fun hp hk hc => ?_, fun hp hk hc h0 => ?_,
    fun hp hcap hnone => (exec_eox_inSysEx hp).trans (endSysEx_of_none hcap hnone)⟩
  · obtain ⟨k, hk⟩ := Option.ne_none_iff_exists'.1 hk
    exact exec_data_of_no_channel hp hk hc d
  · obtain ⟨k, hk⟩ := Option.ne_none_iff_exists'.1 hk
    obtain ⟨ch, hc⟩ := Option.ne_none_iff_exists'.1 hc
    exact exec_data_of_no_data0 hp hk hc h0 d

/-- Settles O33: the three cases of `effect_rs`, each against the four clauses. -/
theorem onlyChannelVoiceAndResetWriteRunningStatus : Obligations.OnlyChannelVoiceAndResetWriteRunningStatus := by
  intro i s t h
  rcases effect_rs (exec_effect h) with ⟨k, ch, rfl, hn, hrs⟩ | ⟨rfl, hrs⟩ | ⟨hne, hcv, hrs⟩
  · refine ⟨fun k' ch' hi _ => ?_, fun _ _ _ hp => absurd hp hn, fun hi => absurd hi (cvInstr_ne_reset k ch),
      fun hi => absurd rfl (hi k ch)⟩
    obtain ⟨rfl, rfl⟩ := cvInstr_inj hi
    exact hrs
  · exact ⟨fun k ch hi => absurd hi.symm (cvInstr_ne_reset k ch),
      fun k ch hi => absurd hi.symm (cvInstr_ne_reset k ch), fun _ => hrs, fun _ hne => absurd rfl hne⟩
  · exact ⟨fun k ch hi hn => absurd (hcv k ch hi) hn, fun _ _ _ _ => hrs, fun hi => absurd hi hne, fun _ _ => hrs⟩

/-- Settles O1: the table is `Parser.reset`, and `reset` writes it in every state (R210, R23). -/
theorem resetStateIsTheTable : Obligations.ResetStateIsTheTable :=
  ⟨⟨rfl, rfl, rfl, rfl, rfl, rfl, memory_read_nil⟩, fun s => ⟨_, exec_reset s, rfl⟩⟩

/-- Settles O2: the reset registers meet the invariants under any parameters. -/
theorem resetStateMeetsTheInvariants : Obligations.ResetStateMeetsTheInvariants :=
  ⟨inv_reset _, inv_reset⟩

/-- Settles O4, by the idle step. -/
theorem stepWithNoOperationKeepsTheState : Obligations.StepWithNoOperationKeepsTheState :=
  fun _ => step_of_no_inputs

end Sys2Proof.Machine
end

section
/-! PROOFS of the memory family (20_memory.md): what an operation does to the SysEx buffer (R41, R43), and the order
the operations run in (R48). -/

namespace Sys2Proof.Machine

/-- What a completed operation does to the payload: nothing, a clear (R18), or one write of the fed byte at entry
`sx_len` below `C`, in SysEx (R41, R162). -/
theorem effect_payload {i : Instr} {s t : State} (h : Effect s i t) :
    (t.parser.sxLen = s.parser.sxLen ∧ t.parser.sxBuf = s.parser.sxBuf) ∨
    (t.parser.sxLen = 0 ∧ t.parser.sxBuf = []) ∨
    (s.parser.phase = .inSysEx ∧ s.parser.sxLen < s.build.capacity ∧ i ≠ .reset ∧
      t.parser.sxLen = s.parser.sxLen + 1 ∧
      t.parser.sxBuf = s.parser.sxBuf.write s.parser.sxLen (byteFed i)) := by
  cases h with
  | orphan | runningFirst | first | realTime => exact .inl ⟨rfl, rfl⟩
  | runningWhole | whole | second | overflowed | started | ended | opened | common | wasReset =>
    exact .inr (.inl ⟨rfl, rfl⟩)
  | appended b hp _ _ hl =>
    rw [byteFed_decodeByte]
    exact .inr (.inr ⟨hp, hl, decodeByte_ne_reset b, rfl, rfl⟩)

/-- Settles O34: the three cases of `effect_payload`, read entry by entry. -/
theorem atMostOneBufferWrite : Obligations.AtMostOneBufferWrite := by
  intro i s t h
  rcases effect_payload (exec_effect h) with ⟨_, hbuf⟩ | ⟨_, hbuf⟩ | ⟨hp, hl, hne, hlen, hbuf⟩ <;> rw [hbuf]
  · exact .inl fun _ => rfl
  · exact .inr (.inl memory_read_nil)
  · exact .inr (.inr ⟨hp, hl, hne, hlen, read_write_same _ _ _, fun _ hn => read_write_other hn _ _⟩)

/-- Settles O3, by the step with an operation waiting. -/
theorem stepRunsTheNextOperation : Obligations.StepRunsTheNextOperation := by
  intro s w ws h
  rw [← load_self h]
  exact step_load_cons w ws s

end Sys2Proof.Machine
end

section
/-! PROOFS of the encoding family (30_encoding.md): the operation word and its rows (R61, R62), the data counts of the
kinds (R63, R64), and the events an operation emits (R67, R68). -/

namespace Sys2Proof.Machine

/-! ## The operation word (R61, R62) -/

/-- Every operation but `reset` is that of a byte (R61). -/
theorem instr_decodeByte_or_reset (i : Instr) : (∃ b, i = decodeByte b) ∨ i = .reset := by
  rcases instr_cases i with ⟨d, rfl⟩ | ⟨k, ch, rfl⟩ | ⟨c, rfl⟩ | ⟨c, rfl⟩ | rfl
  · exact .inl ⟨_, (decodeByte_dataByteOf d).symm⟩
  · exact .inl ⟨_, (decodeByte_cvByte k ch).symm⟩
  · exact .inl ⟨_, rfl⟩
  · exact .inl ⟨_, rfl⟩
  · exact .inr rfl

/-- The word of a byte's operation is the byte's own word (R61, R72). -/
theorem encode_decodeByte (b : Byte) : encode (decodeByte b) = feedWord b := by
  revert b
  decide

/-- A word with bit 8 set is `reset` (R61). -/
theorem decode_of_bit8 {w : OpWord} (h : w.getLsbD 8 = true) : decode w = .reset :=
  if_pos h

/-- A word with bit 8 clear is the operation of its low byte (R61). -/
theorem decode_of_not_bit8 {w : OpWord} (h : w.getLsbD 8 = false) : decode w = decodeByte (w.extractLsb' 0 8) :=
  if_neg (Bool.eq_false_iff.1 h)

/-- A word with bit 8 clear is the word of its low byte (R61, R72). -/
theorem feedWord_low_byte {w : OpWord} (h : w.getLsbD 8 = false) : feedWord (w.extractLsb' 0 8) = w := by
  revert w
  decide

/-- The word of a byte lies in the row of the byte's operation and in no other (R62). -/
theorem rows_of_feedWord (b : Byte) :
    opcodeTable.filter (·.matchesWord (feedWord b)) = [opcodeRow (decodeByte b)] := by
  revert b
  decide

/-- A word with bit 8 set lies in the row of `reset` and in no other (R62, R70). -/
theorem rows_of_bit8 {w : OpWord} (h : w.getLsbD 8 = true) :
    opcodeTable.filter (·.matchesWord w) = [opcodeRow .reset] := by
  revert w
  decide

/-- A number below 512 is an operation word (R61). -/
theorem decodeNat_of_lt {w : Nat} (h : w < 512) : decodeNat w = .ok (decode (BitVec.ofNat 9 w)) := by
  simp [decodeNat, opWordFits, h]

/-- A number from 512 on is refused (log entry 7). -/
theorem decodeNat_of_ge {w : Nat} (h : 512 ≤ w) : decodeNat w = .error .widerThanNineBits := by
  simp [decodeNat, opWordFits, h]

/-! ## Kinds and their nibbles (R63, R64) -/

/-- A kind is selected by its own family nibble alone (R63). -/
theorem familyOfKind_of_kindOf {f : Nibble} {k : CVKind} (h : kindOf f = some k) : familyOfKind k = f := by
  unfold kindOf at h
  split at h <;> cases h <;> rfl

/-- NoteOn and the NoteOff it may be rewritten to take the same number of data bytes (R64, R114). -/
theorem dataCount_normalizeKind (k : CVKind) (d : Data7) : dataCount (normalizeKind k d) = dataCount k := by
  by_cases hk : k = .noteOn
  · subst hk
    unfold normalizeKind
    split <;> rfl
  · rw [normalizeKind_of_ne hk]

/-! ## Events (R67, R68) -/

/-- The event of the operation just answered. -/
@[simp] theorem lastEvent_respond (s : State) (r : Response) : (s.respond r).lastEvent = r.event? := by
  simp [State.lastEvent, State.lastReturned]

/-- Where an event comes from: the last data byte of a Channel Voice message of one data byte or of two, 0xF7 in SysEx,
another System Common byte, or a Real-Time byte (R67). -/
theorem effect_event {i : Instr} {s t : State} {e : Event} (h : Effect s i t)
    (he : t.returned = s.returned ++ [.fed (some e)]) :
    (∃ d k ch, i = .data d ∧ s.parser.phase ≠ .inSysEx ∧ dataCount k = 1 ∧
      e = .channelVoice (normalizeKind k d) ch d none) ∨
    (∃ d k ch d0, i = .data d ∧ s.parser.phase = .awaitingData1 ∧ s.parser.pendKind = some k ∧
      e = .channelVoice (normalizeKind k d) ch d0 (some d)) ∨
    (∃ p, i = .eox ∧ s.parser.phase = .inSysEx ∧ p.length = s.parser.sxLen ∧ e = .systemCommon 0#3 (some p)) ∨
    (∃ c, i = decodeByte (scByte c) ∧ c ≠ 0#3 ∧ e = .systemCommon c none) ∨
    (∃ c, i = decodeByte (rtByte c) ∧ t.parser = s.parser ∧ e = .realTime c) := by
  have hret : ∀ r, t.returned = s.returned ++ [r] → r = .fed (some e) := fun r hr => by simpa [hr] using he
  cases h with
  | orphan | runningFirst | first | appended | overflowed | started | opened | wasReset => cases hret _ rfl
  | runningWhole d k ch hp _ hk | whole d k ch hp _ _ hk =>
    cases hret _ rfl
    exact .inl ⟨d, k, ch, rfl, by simp [hp], hk, rfl⟩
  | second d k ch d0 hp hk =>
    cases hret _ rfl
    exact .inr (.inl ⟨d, k, ch, d0, rfl, hp, hk, rfl⟩)
  | ended p hp hl =>
    cases hret _ rfl
    exact .inr (.inr (.inl ⟨p, rfl, hp, hl, rfl⟩))
  | common c hc =>
    cases hret _ rfl
    exact .inr (.inr (.inr (.inl ⟨c, rfl, hc, rfl⟩)))
  | realTime c =>
    cases hret _ rfl
    exact .inr (.inr (.inr (.inr ⟨c, rfl, rfl, rfl⟩)))

/-! ## The statements -/

/-- Settles O7: an operation is that of a byte, whose word is the byte's own, or `reset`. -/
theorem decodeOfEncodeIsTheOperation : Obligations.DecodeOfEncodeIsTheOperation := by
  intro i _
  rcases instr_decodeByte_or_reset i with ⟨b, rfl⟩ | rfl
  · rw [encode_decodeByte, decode_feedWord]
  · exact decode_resetWord

/-- Settles O36: the sources of `effect_event`, with INV2 for the second data byte and INV6 for the payload. -/
theorem emittedEventsAreWellFormed : Obligations.EmittedEventsAreWellFormed := by
  intro i s t e hs h he
  rcases effect_event (exec_effect h) he with ⟨d, k, ch, _, _, hk, rfl⟩ | ⟨d, k, ch, d0, _, hp, hk, rfl⟩ |
    ⟨p, _, hp, hl, rfl⟩ | ⟨c, _, hc, rfl⟩ | ⟨c, _, _, rfl⟩
  · simp [Event.wf, dataCount_normalizeKind, hk]
  · obtain ⟨_, htwo⟩ := hs.secondDue hp
    simp [Event.wf, dataCount_normalizeKind, htwo k hk]
  · obtain ⟨hcap, _⟩ := hs.bufferFilled hp
    simp [Event.wf, hl, hcap]
  · simp [Event.wf, hc]
  · rfl

/-- Settles O37: each clause names one kind of event, and `effect_event` its sources. -/
theorem eventsComeFromTheirBytes : Obligations.EventsComeFromTheirBytes := by
  intro i s t e h he
  rcases effect_event (exec_effect h) he with ⟨d, k, ch, rfl, hp, _, rfl⟩ | ⟨d, k, ch, d0, rfl, hp, _, rfl⟩ |
    ⟨p, rfl, hp, _, rfl⟩ | ⟨c, rfl, hc, rfl⟩ | ⟨c, rfl, hpar, rfl⟩
  · refine ⟨?_, by simp, by simp, by simp⟩
    rintro _ _ _ _ ⟨⟩
    exact ⟨hp, d, rfl, fun _ => rfl, nofun⟩
  · refine ⟨?_, by simp, by simp, by simp⟩
    rintro _ _ _ _ ⟨⟩
    exact ⟨by simp [hp], d, rfl, nofun, fun _ => Option.some.inj⟩
  · simp [hp]
  · simp [hc]
  · simp [hpar]

/-- Settles O5, by evaluating the decoder on the eleven words. -/
theorem wordsOfTheSpecDecode : Obligations.WordsOfTheSpecDecode := by
  unfold Obligations.WordsOfTheSpecDecode
  decide

/-- Settles O6: with bit 8 set the one row is that of `reset`, with it clear that of the low byte. -/
theorem everyWordNamesExactlyOneRow : Obligations.EveryWordNamesExactlyOneRow := by
  refine fun w => ⟨?_, decode_of_bit8, decode_of_not_bit8, rfl⟩
  cases h : w.getLsbD 8 with
  | true => rw [decode_of_bit8 h, rows_of_bit8 h]
  | false => rw [decode_of_not_bit8 h, ← rows_of_feedWord, feedWord_low_byte h]

/-- Settles O8, by the two readings of bit 8. -/
theorem encodeOfDecodeIsTheCanonicalWord : Obligations.EncodeOfDecodeIsTheCanonicalWord := by
  intro w
  cases h : w.getLsbD 8 with
  | true =>
    rw [decode_of_bit8 h]
    rfl
  | false =>
    rw [decode_of_not_bit8 h, encode_decodeByte, feedWord_low_byte h]
    rfl

/-- Settles O9: the two ranges of `decodeNat`, read through the host's view of it. -/
theorem onlyNineBitNumbersDecode : Obligations.OnlyNineBitNumbersDecode :=
  fun _ _ => ⟨fun h => ⟨by simp [decodeTableWord, decodeNat_of_lt h], decodeNat_of_lt h⟩,
    fun h => ⟨by simp [decodeTableWord, decodeNat_of_ge h], decodeNat_of_ge h⟩⟩

/-- Settles O11, kind by kind: a nibble that selects a kind is the kind's own. -/
theorem dataCountByKindAndNibble : Obligations.DataCountByKindAndNibble := by
  refine ⟨fun k => ?_, fun k => ?_, fun f k h => ?_⟩
  · cases k <;> rfl
  · cases k <;> rfl
  · obtain rfl := familyOfKind_of_kindOf h
    cases k <;> decide

/-- Settles O47: the byte is emitted as a System Common event (R132), for which the channel lines are 0. -/
theorem systemCommonDrivesChannelZero : Obligations.SystemCommonDrivesChannelZero := by
  intro c s hc hp
  rcases scIdle_cases c s.abort with ⟨h0, _⟩ | ⟨_, h⟩
  · exact absurd h0 hc
  · exact ⟨_, .systemCommon c none, (exec_scByte c s).trans ((scStatus_outside hp).trans h), lastEvent_respond _ _,
      by simp [State.eventValid, Response.event?], fun _ => rfl⟩

end Sys2Proof.Machine
end

section
/-! PROOFS of the classifier family (40_classifier.md): the class of a byte (R80), the fields of each byte format
(R60, R69), and the two readings of a `feed`, by operation and by the one function of R84. -/

namespace Sys2Proof.Machine

/-! ## Classes (R80) -/

/-- Bit 7 tells a status byte or a Real-Time byte from a data byte (R60). -/
theorem bit7_iff (b : Byte) : b.getLsbD 7 = true ↔ 0x80#8 ≤ b := by
  revert b
  decide

/-- R80, first range. -/
theorem classOf_realTime_iff (b : Byte) : classOf b = .realTime ↔ 0xF8#8 ≤ b := by
  unfold classOf
  split_ifs with hrt hst
  · exact iff_of_true rfl hrt
  · exact iff_of_false nofun hrt
  · exact iff_of_false nofun hrt

/-- R80, second range. -/
theorem classOf_status_iff (b : Byte) : classOf b = .status ↔ 0x80#8 ≤ b ∧ b ≤ 0xF7#8 := by
  simp only [classOf, bit7_iff]
  split_ifs with hrt hst
  · exact iff_of_false nofun (by bv_omega)
  · exact iff_of_true rfl ⟨hst, by bv_omega⟩
  · exact iff_of_false nofun fun h => hst h.1

/-- R80, third range. -/
theorem classOf_data_iff (b : Byte) : classOf b = .data ↔ b ≤ 0x7F#8 := by
  simp only [classOf, bit7_iff]
  split_ifs with hrt hst
  · exact iff_of_false nofun (by bv_omega)
  · exact iff_of_false nofun (by bv_omega)
  · exact iff_of_true rfl (by bv_omega)

/-! ## The byte formats and their fields (R60, R69) -/

/-- A byte is a data byte, a Channel Voice status byte, a System Common byte or a Real-Time byte (R60). -/
theorem byte_cases (b : Byte) :
    (∃ d, b = dataByteOf d) ∨ (∃ k ch, b = cvByte k ch) ∨ (∃ c, b = scByte c) ∨ (∃ c, b = rtByte c) := by
  by_cases h : b ≤ 0xF7#8
  · rcases byte_formats b h with ⟨_, hd⟩ | ⟨_, hcv⟩ | ⟨_, c, hc, _⟩
    · exact .inl hd
    · exact .inr (.inl hcv)
    · exact .inr (.inr (.inl ⟨c, hc⟩))
  · exact .inr (.inr (.inr ⟨_, byte_realTime b (by bv_omega)⟩))

theorem dataByteOf_le (d : Data7) : dataByteOf d ≤ 0x7F#8 := by
  revert d
  decide

theorem scByte_in_scRange (c : Code) : 0xF0#8 ≤ scByte c ∧ scByte c ≤ 0xF7#8 := by
  revert c
  decide

theorem rtByte_ge (c : Code) : 0xF8#8 ≤ rtByte c := by
  revert c
  decide

@[simp] theorem classOf_dataByteOf (d : Data7) : classOf (dataByteOf d) = .data :=
  (classOf_data_iff _).2 (dataByteOf_le d)

@[simp] theorem classOf_cvByte (k : CVKind) (ch : Channel) : classOf (cvByte k ch) = .status := by
  obtain ⟨hlo, hhi⟩ := cvByte_in_cvRange k ch
  exact (classOf_status_iff _).2 ⟨hlo, BitVec.le_trans hhi (by decide)⟩

@[simp] theorem classOf_scByte (c : Code) : classOf (scByte c) = .status := by
  obtain ⟨hlo, hhi⟩ := scByte_in_scRange c
  exact (classOf_status_iff _).2 ⟨BitVec.le_trans (by decide) hlo, hhi⟩

@[simp] theorem classOf_rtByte (c : Code) : classOf (rtByte c) = .realTime :=
  (classOf_realTime_iff _).2 (rtByte_ge c)

@[simp] theorem dataOf_dataByteOf (d : Data7) : dataOf (dataByteOf d) = d := by
  revert d
  decide

@[simp] theorem kindOf_familyOf_cvByte (k : CVKind) (ch : Channel) : kindOf (familyOf (cvByte k ch)) = some k := by
  cases k <;> revert ch <;> decide

@[simp] theorem channelOf_cvByte (k : CVKind) (ch : Channel) : channelOf (cvByte k ch) = ch := by
  cases k <;> revert ch <;> decide

@[simp] theorem kindOf_familyOf_scByte (c : Code) : kindOf (familyOf (scByte c)) = none := by
  revert c
  decide

@[simp] theorem codeOf_scByte (c : Code) : codeOf (scByte c) = c := by
  revert c
  decide

@[simp] theorem codeOf_rtByte (c : Code) : codeOf (rtByte c) = c := by
  revert c
  decide

/-- Different codes make different System Common bytes (R65). -/
theorem scByte_injective : Function.Injective scByte :=
  Function.LeftInverse.injective codeOf_scByte

theorem dataByteOf_ne_eox (d : Data7) : dataByteOf d ≠ 0xF7#8 := by
  have h := dataByteOf_le d
  bv_omega

theorem cvByte_ne_eox (k : CVKind) (ch : Channel) : cvByte k ch ≠ 0xF7#8 := by
  obtain ⟨_, h⟩ := cvByte_in_cvRange k ch
  bv_omega

/-- 0xF7 is the System Common byte of code 7 (R65). -/
theorem scByte_eq_eox_iff (c : Code) : scByte c = 0xF7#8 ↔ c = 7#3 :=
  scByte_injective.eq_iff (b := 7#3)

/-- 0xF0 is the System Common byte of code 0 (R65). -/
theorem scByte_eq_sox_iff (c : Code) : scByte c = 0xF0#8 ↔ c = 0#3 :=
  scByte_injective.eq_iff (b := 0#3)

/-! ## The branches of R84's function -/

/-- A Real-Time byte takes no part in the pre-step and the dispatch (R84, step 1). -/
theorem feed_of_realTime {b : Byte} (hb : classOf b = .realTime) (s : State) :
    feed b s = realTime (codeOf b) s :=
  if_pos hb

/-- A data byte meets no abort (R82). -/
theorem feed_of_data {b : Byte} (hb : classOf b = .data) (s : State) : feed b s = dispatch b s := by
  simp [feed, preStep, hb]

/-- In SysEx a byte that is neither 0xF7 nor aborted is payload (R84, R160). -/
theorem dispatch_payload {b : Byte} {s : State} (hp : s.parser.phase = .inSysEx) (hb : b ≠ 0xF7#8) :
    dispatch b s = sysExByte b s := by
  simp [dispatch, hp, hb, sysExByte, hasRoom]

/-- 0xF7 in SysEx ends the message under either policy (R84, R166). -/
theorem feed_eox_inSysEx {s : State} (hp : s.parser.phase = .inSysEx) : feed 0xF7#8 s = endSysEx s := by
  have hb : classOf 0xF7#8 = .status := by decide
  simp [feed, preStep, dispatch, hb, hp]

/-- Under `Legacy` another status byte in SysEx is payload (R84, R164). -/
theorem feed_status_legacy {b : Byte} {s : State} (hb : classOf b = .status) (hne : b ≠ 0xF7#8)
    (hp : s.parser.phase = .inSysEx) (hq : s.build.policy = .legacy) : feed b s = sysExByte b s := by
  have hpre : preStep b s = s := by simp [preStep, hp, hq]
  simp [feed, hb, hpre, dispatch_payload hp hne]

/-- Every other status byte aborts what is in progress and takes the `Idle` arm (R82, R84, R165). -/
theorem feed_status_abort {b : Byte} {s : State} (hb : classOf b = .status)
    (hn : ¬ (s.parser.phase = .inSysEx ∧ (b = 0xF7#8 ∨ s.build.policy = .legacy))) :
    feed b s = idleDispatch b s.abort := by
  have hpre : preStep b s = s.abort := by
    by_cases hp : s.parser.phase = .inSysEx
    · obtain ⟨hne, hq⟩ := not_or.1 fun h => hn ⟨hp, h⟩
      have hq : s.build.policy = .abortOnStatus := by
        cases h : s.build.policy with
        | legacy => exact absurd h hq
        | abortOnStatus => rfl
      simp [preStep, hb, hp, hne, hq]
    · simp [preStep, hb, hp]
  simp [feed, hb, hpre, dispatch]

/-- The `Idle` arm starts a message on a Channel Voice status byte (R84, R101). -/
theorem idleDispatch_cvByte (k : CVKind) (ch : Channel) (s : State) :
    idleDispatch (cvByte k ch) s = startCV k ch s := by
  simp [idleDispatch]

/-- The `Idle` arm starts SysEx on 0xF0 and emits the other System Common bytes (R84, R130). -/
theorem idleDispatch_scByte (c : Code) (s : State) : idleDispatch (scByte c) s = scIdle c s := by
  simp [idleDispatch, scByte_eq_sox_iff, scIdle]

/-! ## The two readings agree, format by format (R84) -/

/-- `FEED.DATA` is the dispatch on `phase` (R84, R109). -/
theorem execData_eq_feed (d : Data7) (s : State) : execData d s = feed (dataByteOf d) s := by
  rw [feed_of_data (classOf_dataByteOf d)]
  cases hp : s.parser.phase with
  | idle => simp [execData, dispatch, idleDispatch, hp]
  | awaitingData0 => simp [execData, dispatch, hp]
  | awaitingData1 => simp [execData, dispatch, hp]
  | inSysEx =>
    rw [dispatch_payload hp (dataByteOf_ne_eox d)]
    simp [execData, hp]

/-- A Channel Voice status byte is payload in SysEx under `Legacy`, else it aborts and starts a message, in both
readings (R84, R100). -/
theorem cvStatus_eq_feed (k : CVKind) (ch : Channel) (s : State) : cvStatus k ch s = feed (cvByte k ch) s := by
  rcases cvStatus_cases k ch s with ⟨hp, hq, e⟩ | ⟨hn, e⟩
  · rw [e, feed_status_legacy (classOf_cvByte k ch) (cvByte_ne_eox k ch) hp hq]
  · have hn' : ¬ (s.parser.phase = .inSysEx ∧ (cvByte k ch = 0xF7#8 ∨ s.build.policy = .legacy)) :=
      fun h => hn ⟨h.1, h.2.resolve_left (cvByte_ne_eox k ch)⟩
    rw [e, feed_status_abort (classOf_cvByte k ch) hn', idleDispatch_cvByte]

/-- A System Common byte ends SysEx, is payload, or aborts and takes the `Idle` arm, in both readings (R84, R130). -/
theorem scStatus_eq_feed (c : Code) (s : State) : scStatus c s = feed (scByte c) s := by
  rcases scStatus_cases c s with ⟨hp, rfl, e⟩ | ⟨hp, hc, hq, e⟩ | ⟨hn, e⟩
  · exact e.trans (feed_eox_inSysEx hp).symm
  · rw [e, feed_status_legacy (classOf_scByte c) (mt (scByte_eq_eox_iff c).1 hc) hp hq]
  · rw [← scByte_eq_eox_iff] at hn
    rw [e, feed_status_abort (classOf_scByte c) hn, idleDispatch_scByte]

/-- A Real-Time byte is emitted in both readings (R84, R190). -/
theorem realTime_eq_feed (c : Code) (s : State) : realTime c s = feed (rtByte c) s := by
  rw [feed_of_realTime (classOf_rtByte c), codeOf_rtByte]

/-! ## The message in progress -/

/-- Of the registers an abort keeps running status alone (R18, R82). -/
theorem stateAbort_congr {s s' : State} (hb : s.build = s'.build) (hr : s.parser.rs = s'.parser.rs)
    (hi : s.inputs = s'.inputs) (ho : s.returned = s'.returned) : s.abort = s'.abort := by
  simp [State.abort, State.withParser, Parser.abort, Parser.clearPending, hb, hr, hi, ho]

/-! ## The statements -/

/-- Settles O26, by the four byte formats. -/
theorem operationsAreTheFeedFunction : Obligations.OperationsAreTheFeedFunction := by
  intro b s
  rcases byte_cases b with ⟨d, rfl⟩ | ⟨k, ch, rfl⟩ | ⟨c, rfl⟩ | ⟨c, rfl⟩
  · rw [decodeByte_dataByteOf]
    exact execData_eq_feed d s
  · rw [decodeByte_cvByte, exec_cvInstr]
    exact cvStatus_eq_feed k ch s
  · rw [exec_scByte]
    exact scStatus_eq_feed c s
  · rw [exec_rtByte]
    exact realTime_eq_feed c s

/-- Settles O38: by O26 the byte is dispatched on the aborted state, which keeps nothing of the message in progress. -/
theorem statusByteForgetsTheMessageInProgress : Obligations.StatusByteForgetsTheMessageInProgress := by
  intro b s s' hlo hhi hp hp' hb hr hi ho
  have hst : classOf b = .status := (classOf_status_iff b).2 ⟨hlo, hhi⟩
  calc exec (decodeByte b) s
    _ = feed b s := operationsAreTheFeedFunction b s
    _ = idleDispatch b s.abort := feed_status_abort hst fun h => hp h.1
    _ = idleDispatch b s'.abort := by rw [stateAbort_congr hb hr hi ho]
    _ = feed b s' := (feed_status_abort hst fun h => hp' h.1).symm
    _ = exec (decodeByte b) s' := (operationsAreTheFeedFunction b s').symm

/-- Settles O10, range by range. -/
theorem byteClassesAreTheRanges : Obligations.ByteClassesAreTheRanges :=
  fun b => ⟨classOf_realTime_iff b, classOf_status_iff b, classOf_data_iff b⟩

end Sys2Proof.Machine
end

section
/-! PROOFS of the channel voice family (41_channel_voice.md): what a data byte does in each phase outside SysEx
(R110 to R115), and the messages a stream of data bytes makes under running status. -/

namespace Sys2Proof.Machine

/-! ## A data byte, phase by phase (R110 to R113) -/

/-- With no running status a data byte in `Idle` is dropped (R110). -/
theorem exec_data_orphan {s : State} (hp : s.parser.phase = .idle) (hr : s.parser.rs = none) (d : Data7) :
    exec (.data d) s = .next (s.respond (.fed none)) := by
  simp [exec, execData, hp, idleData, hr, noEvent]

/-- Under running status of a one-data-byte kind a data byte in `Idle` is a message (R111, R115). -/
theorem exec_data_runningWhole {k : CVKind} {ch : Channel} {s : State} (hp : s.parser.phase = .idle)
    (hr : s.parser.rs = some (k, ch)) (hk : dataCount k = 1) (d : Data7) :
    exec (.data d) s = .next (s.abort.respond (.fed (some (.channelVoice k ch d none)))) := by
  simp [exec, execData, hp, idleData, hr, hk, completeCV, normalizeKind_of_one hk, emit]

/-- Under running status of a two-data-byte kind a data byte in `Idle` is the first of a message (R111). -/
theorem exec_data_runningFirst {k : CVKind} {ch : Channel} {s : State} (hp : s.parser.phase = .idle)
    (hr : s.parser.rs = some (k, ch)) (hk : dataCount k = 2) (d : Data7) :
    exec (.data d) s = .next ((s.withParser { s.parser with
      pendKind := some k, pendChan := some ch, pendD0 := some d, phase := .awaitingData1 }).respond (.fed none)) := by
  simp [exec, execData, hp, idleData, hr, hk, noEvent]

/-- In `AwaitingData0` a data byte is a message of a one-data-byte kind (R112, R115). -/
theorem exec_data_whole {k : CVKind} {ch : Channel} {s : State} (hp : s.parser.phase = .awaitingData0)
    (hk : s.parser.pendKind = some k) (hc : s.parser.pendChan = some ch) (hn : dataCount k = 1) (d : Data7) :
    exec (.data d) s = .next (s.abort.respond (.fed (some (.channelVoice k ch d none)))) := by
  simp [exec, execData, hp, dataAD0_of_some hk hc, hn, normalizeKind_of_one hn]

/-- In `AwaitingData0` a data byte is the first of a message of a two-data-byte kind (R112). -/
theorem exec_data_first {k : CVKind} {ch : Channel} {s : State} (hp : s.parser.phase = .awaitingData0)
    (hk : s.parser.pendKind = some k) (hc : s.parser.pendChan = some ch) (hn : dataCount k = 2) (d : Data7) :
    exec (.data d) s =
      .next ((s.withParser { s.parser with pendD0 := some d, phase := .awaitingData1 }).respond (.fed none)) := by
  simp [exec, execData, hp, dataAD0_of_some hk hc, hn]

/-- In `AwaitingData1` a data byte completes the message, its kind normalised (R113 to R115). -/
theorem exec_data_second {k : CVKind} {ch : Channel} {d0 : Data7} {s : State}
    (hp : s.parser.phase = .awaitingData1) (hk : s.parser.pendKind = some k) (hc : s.parser.pendChan = some ch)
    (h0 : s.parser.pendD0 = some d0) (d : Data7) :
    exec (.data d) s =
      .next (s.abort.respond (.fed (some (.channelVoice (normalizeKind k d) ch d0 (some d))))) := by
  simp [exec, execData, hp, dataAD1_of_some hk hc h0]

/-! ## Streams of data bytes under running status (R111, R113) -/

/-- A step with a data byte waiting (R48, R61). -/
theorem step_dataByte {d : Data7} {ws : List OpWord} {s : State} (h : s.inputs = feedWord (dataByteOf d) :: ws) :
    step s = exec (.data d) (s.load ws) := by
  rw [step_feedWord h, decodeByte_dataByteOf]
  rfl

/-- `n` steps from `s` emit `es`, leave `rest` waiting, and end in `Idle` under running status `(k, ch)`: the conclusion
of O44. -/
def EmitsUnderRunningStatus (k : CVKind) (ch : Channel) (n : Nat) (s : State) (rest : List OpWord)
    (es : List Event) : Prop :=
  ∃ t, run n s = .next t ∧ t.inputs = rest ∧ t.parser.phase = .idle ∧ t.parser.rs = some (k, ch) ∧
    t.events = s.events ++ es

/-- A data byte of a one-data-byte kind is a message and keeps running status (R111, R115). -/
theorem emits_oneByteMessage {k : CVKind} {ch : Channel} (hk : dataCount k = 1) (d : Data7) {s : State}
    {rest : List OpWord} (hp : s.parser.phase = .idle) (hr : s.parser.rs = some (k, ch))
    (hin : s.inputs = bytesWords [dataByteOf d] ++ rest) :
    EmitsUnderRunningStatus k ch 1 s rest [.channelVoice k ch d none] := by
  have hstep := (step_dataByte hin).trans (exec_data_runningWhole (s := s.load rest) hp hr hk d)
  exact ⟨_, run_succ_of_next hstep, rfl, rfl, hr, events_respond _ _⟩

/-- Two data bytes of a two-data-byte kind are a message, its kind normalised, and keep running status (R111, R113,
92 D6). -/
theorem emits_twoByteMessage {k : CVKind} {ch : Channel} (hk : dataCount k = 2) (d0 d1 : Data7) {s : State}
    {rest : List OpWord} (hp : s.parser.phase = .idle) (hr : s.parser.rs = some (k, ch))
    (hin : s.inputs = bytesWords [dataByteOf d0, dataByteOf d1] ++ rest) :
    EmitsUnderRunningStatus k ch 2 s rest [.channelVoice (normalizeKind k d1) ch d0 (some d1)] := by
  have hfirst := (step_dataByte hin).trans (exec_data_runningFirst (s := s.load (_ :: rest)) hp hr hk d0)
  obtain ⟨u, hu, hinu, hpu, hku, hcu, h0u, hru, hevu⟩ : ∃ u, step s = .next u ∧
      u.inputs = feedWord (dataByteOf d1) :: rest ∧ u.parser.phase = .awaitingData1 ∧ u.parser.pendKind = some k ∧
      u.parser.pendChan = some ch ∧ u.parser.pendD0 = some d0 ∧ u.parser.rs = some (k, ch) ∧ u.events = s.events :=
    ⟨_, hfirst, rfl, rfl, rfl, rfl, rfl, hr, (events_respond _ _).trans (List.append_nil _)⟩
  have hsecond := (step_dataByte hinu).trans (exec_data_second (s := u.load rest) hpu hku hcu h0u d1)
  exact ⟨_, (run_succ_of_next hu).trans (run_succ_of_next hsecond), rfl, rfl, hru,
    (events_respond _ _).trans (congrArg (· ++ _) hevu)⟩

/-- Where the bytes of each message of a kind emit its event and keep running status, so do any number of them. -/
theorem emits_flatMap {α : Type} {k : CVKind} {ch : Channel} {n : Nat} {bytes : α → List Byte} {event : α → Event}
    (hmsg : ∀ (x : α) {s : State} {rest : List OpWord}, s.parser.phase = .idle → s.parser.rs = some (k, ch) →
      s.inputs = bytesWords (bytes x) ++ rest → EmitsUnderRunningStatus k ch n s rest [event x])
    (xs : List α) {s : State} {rest : List OpWord} (hp : s.parser.phase = .idle)
    (hr : s.parser.rs = some (k, ch)) (hin : s.inputs = bytesWords (xs.flatMap bytes) ++ rest) :
    EmitsUnderRunningStatus k ch (n * xs.length) s rest (xs.map event) := by
  induction xs generalizing s with
  | nil => exact ⟨s, rfl, hin, hp, hr, (List.append_nil _).symm⟩
  | cons x xs ih =>
    have hin' : s.inputs = bytesWords (bytes x) ++ (bytesWords (xs.flatMap bytes) ++ rest) := by
      simpa [bytesWords] using hin
    obtain ⟨u, hrun, hinu, hpu, hru, hevu⟩ := hmsg x hp hr hin'
    obtain ⟨t, hrun', hint, hpt, hrt, hevt⟩ := ih hpu hru hinu
    refine ⟨t, ?_, hint, hpt, hrt, by simp [hevt, hevu]⟩
    rw [List.length_cons, Nat.mul_succ, Nat.add_comm, run_add_of_next hrun, hrun']

/-! ## The statements -/

/-- Settles O44: `emits_flatMap`, whose induction is on the messages, for each of the two data counts. -/
theorem runningStatusDecodesEveryMessage : Obligations.RunningStatusDecodesEveryMessage := by
  intro k ch s rest hp hr
  refine ⟨fun ps hk hin => ?_, fun ds hk hin => ?_⟩
  · exact emits_flatMap (fun p => emits_twoByteMessage hk p.1 p.2) ps hp hr hin
  · rw [List.map_eq_flatMap] at hin
    have h := emits_flatMap (emits_oneByteMessage hk) ds hp hr hin
    rwa [Nat.one_mul] at h

/-- Settles O12: each pair of the list is `(cvInstr k ch, k)`, which aborts and starts its message (R82, R101). -/
theorem channelVoiceStatusStartsAMessage : Obligations.ChannelVoiceStatusStartsAMessage := by
  intro ch s hp i k hik
  have hi : i = cvInstr k ch := by
    simp only [List.mem_cons, Prod.mk.injEq, List.not_mem_nil, or_false] at hik
    rcases hik with ⟨rfl, rfl⟩ | ⟨rfl, rfl⟩ | ⟨rfl, rfl⟩ | ⟨rfl, rfl⟩ | ⟨rfl, rfl⟩ | ⟨rfl, rfl⟩ | ⟨rfl, rfl⟩ <;> rfl
  calc exec i s
    _ = cvStatus k ch s := by rw [hi, exec_cvInstr]
    _ = startCV k ch s.abort := cvStatus_outside hp

/-- Settles O13 (R110). -/
theorem orphanDataByteIsDropped : Obligations.OrphanDataByteIsDropped :=
  fun d _ hp hr => exec_data_orphan hp hr d

/-- Settles O14, by the two data counts (R111). -/
theorem dataByteUnderRunningStatus : Obligations.DataByteUnderRunningStatus := by
  refine fun d k ch s hp hr => ⟨fun hk => ?_, fun hk => exec_data_runningFirst hp hr hk d⟩
  rw [exec_data_runningWhole hp hr hk, ← hr]
  rfl

/-- Settles O15, by the two data counts (R112). -/
theorem firstDataByteAfterStatus : Obligations.FirstDataByteAfterStatus :=
  fun d _ _ _ hp hk hc => ⟨fun hn => exec_data_whole hp hk hc hn d, fun hn => exec_data_first hp hk hc hn d⟩

/-- Settles O16: the emitted kind is the normalised one (R114). -/
theorem secondDataByteCompletesTheMessage : Obligations.SecondDataByteCompletesTheMessage :=
  fun d _ k _ _ hp hk hc h0 => ⟨normalizeKind k d, fun h => if_pos h, fun h => if_neg h, exec_data_second hp hk hc h0 d⟩

end Sys2Proof.Machine
end

section
/-! PROOFS of the system common family (42_system_common.md): what a System Common byte does outside SysEx (R131, R132),
which operations enter SysEx and leave it (R160, R164), and the data bytes after a System Common byte (R140). -/

namespace Sys2Proof.Machine

/-! ## System Common bytes outside SysEx (R131, R132) -/

/-- Outside SysEx 0xF0 aborts the message in progress and starts collecting (R82, R131). -/
theorem exec_sox_outside {s : State} (hp : s.parser.phase ≠ .inSysEx) :
    exec .sox s =
      .next ((s.withParser { s.parser.abort with sxLen := 0, phase := .inSysEx }).respond (.fed none)) := by
  rcases scIdle_cases 0#3 s.abort with ⟨_, h⟩ | ⟨h0, _⟩
  · exact (scStatus_outside hp).trans h
  · exact absurd rfl h0

/-- Outside SysEx every other System Common byte aborts the message in progress and is emitted (R82, R132). -/
theorem exec_scByte_outside {c : Code} {s : State} (hc : c ≠ 0#3) (hp : s.parser.phase ≠ .inSysEx) :
    exec (decodeByte (scByte c)) s = .next (s.abort.respond (.fed (some (.systemCommon c none)))) := by
  rcases scIdle_cases c s.abort with ⟨h0, _⟩ | ⟨_, h⟩
  · exact absurd h0 hc
  · exact (exec_scByte c s).trans ((scStatus_outside hp).trans h)

/-! ## Entering and leaving SysEx (R131, R160, R164) -/

/-- A completed operation that enters SysEx is `FEED.SOX` (R131). -/
theorem effect_enters_sysEx {i : Instr} {s t : State} (h : Effect s i t) (hp : s.parser.phase ≠ .inSysEx)
    (ht : t.parser.phase = .inSysEx) : i = .sox := by
  cases h with
  | opened => rfl
  | appended _ hin | overflowed _ hin | ended _ hin => exact absurd hin hp
  | orphan | realTime => exact absurd ht hp
  | runningWhole | runningFirst | whole | first | second | started | common | wasReset => cases ht

/-- Under `Legacy` a completed operation that leaves SysEx is `FEED.EOX`, `reset`, or a byte that found the buffer full
(R160, R163, R164). -/
theorem effect_leaves_sysEx {i : Instr} {s t : State} (h : Effect s i t) (hp : s.parser.phase = .inSysEx)
    (hq : s.build.policy = .legacy) (ht : t.parser.phase ≠ .inSysEx) :
    i = .eox ∨ i = .reset ∨ s.build.capacity ≤ s.parser.sxLen := by
  cases h with
  | ended => exact .inl rfl
  | wasReset => exact .inr (.inl rfl)
  | overflowed _ _ _ _ hl => exact .inr (.inr (Nat.le_of_not_lt hl))
  | appended | realTime => exact absurd hp ht
  | started _ _ hn | opened hn => exact absurd ⟨hp, hq⟩ hn
  | common _ _ hn => exact absurd ⟨hp, .inr hq⟩ hn
  | orphan _ hout | runningWhole _ _ _ hout | runningFirst _ _ _ hout | whole _ _ _ hout | first _ _ _ hout
  | second _ _ _ _ hout => cases hp.symm.trans hout

/-! ## Data bytes after a System Common byte (R140) -/

/-- The step of an emitted System Common byte: running status is the one register it leaves (R132, 92 D5). -/
theorem step_scByte_outside {c : Code} {s : State} {ws : List OpWord} (hc : c ≠ 0#3)
    (hp : s.parser.phase ≠ .inSysEx) (hin : s.inputs = feedWord (scByte c) :: ws) :
    ∃ u, step s = .next u ∧ u.inputs = ws ∧ u.parser = s.parser.abort ∧
      u.events = s.events ++ [.systemCommon c none] :=
  ⟨_, (step_feedWord hin).trans (exec_scByte_outside (s := s.load ws) hc hp), rfl, rfl, events_respond _ _⟩

/-- With no running status any number of data bytes in `Idle` is dropped (R110). -/
theorem run_orphans {s : State} {rest : List OpWord} (ds : List Data7) (hp : s.parser.phase = .idle)
    (hr : s.parser.rs = none) (hin : s.inputs = bytesWords (ds.map dataByteOf) ++ rest) :
    ∃ t, run ds.length s = .next t ∧ t.inputs = rest ∧ t.parser = s.parser ∧ t.events = s.events := by
  induction ds generalizing s with
  | nil => exact ⟨s, rfl, hin, rfl, rfl⟩
  | cons d ds ih =>
    obtain ⟨u, hstep, hinu, hparu, hevu⟩ : ∃ u, step s = .next u ∧
        u.inputs = bytesWords (ds.map dataByteOf) ++ rest ∧ u.parser = s.parser ∧ u.events = s.events :=
      ⟨_, (step_dataByte hin).trans (exec_data_orphan (s := s.load (bytesWords (ds.map dataByteOf) ++ rest)) hp hr d),
        rfl, rfl, (events_respond _ _).trans (List.append_nil _)⟩
    obtain ⟨t, hrun, hint, hpar, hev⟩ := ih (hparu ▸ hp) (hparu ▸ hr) hinu
    exact ⟨t, (run_succ_of_next hstep).trans hrun, hint, hpar.trans hparu, hev.trans hevu⟩

/-! ## The statements -/

/-- Settles O39, by the cases of a completed operation. -/
theorem enteringAndLeavingSysEx : Obligations.EnteringAndLeavingSysEx :=
  fun _ _ _ h => ⟨effect_enters_sysEx (exec_effect h), effect_leaves_sysEx (exec_effect h)⟩

/-- Settles O45: the System Common byte leaves the aborted registers, in which the data bytes are orphans (R110) or a
message under running status (R111, R113, R114). -/
theorem dataAfterSystemCommonIsNotCollected : Obligations.DataAfterSystemCommonIsNotCollected := by
  intro c s ds rest hc hp hin
  obtain ⟨u, hstep, hinu, hparu, hevu⟩ := step_scByte_outside hc hp hin
  have hidle : u.parser.phase = .idle := congrArg Parser.phase hparu
  have hrsu : u.parser.rs = s.parser.rs := (congrArg Parser.rs hparu).trans (abort_rs _)
  refine ⟨fun hr => ?_, ?_⟩
  · obtain ⟨t, hrun, hint, hpart, hevt⟩ := run_orphans ds hidle (hrsu.trans hr) hinu
    have hreset : s.parser.abort = Parser.reset := by simp [Parser.abort, Parser.clearPending, Parser.reset, hr]
    exact ⟨t, (run_succ_of_next hstep).trans hrun, hint, hpart.trans (hparu.trans hreset), hevt.trans hevu⟩
  · rintro k ch d0 d1 hr hk rfl
    obtain ⟨t, hrun, hint, _, hrst, hevt⟩ := emits_twoByteMessage hk d0 d1 hidle (hrsu.trans hr) hinu
    exact ⟨t, (run_succ_of_next hstep).trans hrun, hint, hrst, by simp [hevt, hevu, normalizeKind]⟩

/-- Settles O18 (R131). -/
theorem sysExStartOutsideSysEx : Obligations.SysExStartOutsideSysEx :=
  fun _ => exec_sox_outside

/-- Settles O19: each pair of the list is a byte `scByte c` with its code (R132). -/
theorem systemCommonOutsideSysExIsEmitted : Obligations.SystemCommonOutsideSysExIsEmitted := by
  intro s hp i c hic
  obtain ⟨rfl, hc⟩ : i = decodeByte (scByte c) ∧ c ≠ 0#3 := by
    simp only [List.mem_cons, Prod.mk.injEq, List.not_mem_nil, or_false] at hic
    rcases hic with ⟨rfl, rfl⟩ | ⟨rfl, rfl⟩ | ⟨rfl, rfl⟩ | ⟨rfl, rfl⟩ | ⟨rfl, rfl⟩ | ⟨rfl, rfl⟩ | ⟨rfl, rfl⟩ <;>
      decide
  exact exec_scByte_outside hc hp

end Sys2Proof.Machine
end

section
/-! PROOFS of the SysEx family (43_sysex.md): what a payload byte and a status byte do in SysEx (R161 to R166), the
payload length (R168), and the streams that fill the buffer exactly, or overflow it by one byte (R169). -/

namespace Sys2Proof.Machine

/-! ## One byte in SysEx (R161 to R166) -/

/-- The bytes that the policy lets be payload (R160, R162, R164). -/
def IsPayload (q : SysExStatusPolicy) (b : Byte) : Prop := b ≤ 0xF6#8 ∧ (b ≤ 0x7F#8 ∨ q = .legacy)

/-- The registers after a payload byte that had room (R162). -/
def Parser.append (b : Byte) (p : Parser) : Parser :=
  { p with sxLen := p.sxLen + 1, sxBuf := p.sxBuf.write p.sxLen b }

/-- A payload byte with room is appended (R162). -/
theorem exec_payload_of_room {b : Byte} {s : State} (hb : IsPayload s.build.policy b)
    (hp : s.parser.phase = .inSysEx) (hl : s.parser.sxLen < s.build.capacity) :
    exec (decodeByte b) s = .next ((s.withParser (s.parser.append b)).respond (.fed none)) :=
  calc exec (decodeByte b) s
    _ = sysExByte b s := exec_payloadByte hb.1 hb.2 hp
    _ = appendByte b s := sysExByte_of_room hl
    _ = _ := appendByte_of_room hl

/-- A payload byte that finds the buffer full drops the message (R163). -/
theorem exec_payload_of_full {b : Byte} {s : State} (hb : IsPayload s.build.policy b)
    (hp : s.parser.phase = .inSysEx) (hl : s.parser.sxLen = s.build.capacity) :
    exec (decodeByte b) s = .next (s.abort.respond (.fed none)) :=
  (exec_payloadByte hb.1 hb.2 hp).trans (sysExByte_of_full hl.not_lt)

/-- Under `AbortOnStatus` a Channel Voice status byte starts its message, in SysEx too (R101, R165). -/
theorem cvStatus_abortOnStatus {s : State} (hq : s.build.policy = .abortOnStatus) (k : CVKind) (ch : Channel) :
    cvStatus k ch s = startCV k ch s.abort := by
  rcases cvStatus_cases k ch s with ⟨_, hleg, _⟩ | ⟨_, h⟩
  · cases hq.symm.trans hleg
  · exact h

/-- Under `AbortOnStatus` a System Common byte but 0xF7 takes the `Idle` rules, in SysEx too (R130, R165, R166). -/
theorem scStatus_abortOnStatus {s : State} (hq : s.build.policy = .abortOnStatus) {c : Code} (hc : c ≠ 7#3) :
    scStatus c s = scIdle c s.abort := by
  rcases scStatus_cases c s with ⟨_, h7, _⟩ | ⟨_, _, hleg, _⟩ | ⟨_, h⟩
  · exact absurd h7 hc
  · cases hq.symm.trans hleg
  · exact h

/-- No operation changes the build parameters (R241). -/
theorem effect_build {i : Instr} {s t : State} (h : Effect s i t) : t.build = s.build := by
  cases h <;> rfl

/-! ## A payload being collected -/

/-- The registers in SysEx with the payload `bs` collected so far (R16, R17, R160). -/
structure Collecting (p : Parser) (bs : List Byte) : Prop where
  phase : p.phase = .inSysEx
  length : p.sxLen = bs.length
  entry : ∀ i, i < bs.length → p.sxBuf.read i = bs[i]?

/-- An append makes the byte the last of the payload (R162). -/
theorem collecting_append {p : Parser} {bs : List Byte} (h : Collecting p bs) (b : Byte) :
    Collecting (p.append b) (bs ++ [b]) where
  phase := h.phase
  length := by simp [Parser.append, h.length]
  entry i hi := by
    rw [List.length_append, List.length_singleton] at hi
    rcases Nat.lt_succ_iff_lt_or_eq.1 hi with hlt | rfl
    · have hne : i ≠ p.sxLen := by rw [h.length]; exact hlt.ne
      rw [Parser.append, read_write_other hne, h.entry i hlt, List.getElem?_append_left hlt]
    · simp [Parser.append, ← h.length]

/-- 0xF7 delivers exactly the payload collected (R161, R44). -/
theorem exec_eox_of_collecting {s : State} {bs : List Byte} (h : Collecting s.parser bs)
    (hcap : bs.length ≤ s.build.capacity) :
    exec .eox s = .next (s.abort.respond (.fed (some (.systemCommon 0#3 (some bs))))) := by
  have hfilled : ∀ i, i < s.parser.sxLen → ∃ v, s.parser.sxBuf.read i = some v := fun i hi => by
    rw [h.length] at hi
    exact ⟨bs[i], (h.entry i hi).trans (List.getElem?_eq_getElem hi)⟩
  obtain ⟨p, hlen, hget, hend⟩ := endSysEx_of_filled (h.length.trans_le hcap) hfilled
  have hpbs : p = bs := by
    refine List.ext_getElem? fun i => ?_
    by_cases hi : i < bs.length
    · exact (hget i (h.length ▸ hi)).trans (h.entry i hi)
    · rw [List.getElem?_eq_none (by rw [hlen, h.length]; omega), List.getElem?_eq_none (by omega)]
  rw [exec_eox_inSysEx h.phase, hend, hpbs]

/-! ## Streams of payload and Real-Time bytes (R162, R190) -/

/-- The bytes of a stream in SysEx that are its payload (R160). -/
def payloadOf (q : List Byte) : List Byte := q.filter (fun b => decide (b ≤ 0xF6#8))

/-- The events of a stream's Real-Time bytes (R190). -/
def realTimeEventsOf (q : List Byte) : List Event :=
  (q.filter (fun b => decide (0xF8#8 ≤ b))).map (fun b => .realTime (codeOf b))

theorem payloadOf_cons_payload {b : Byte} (hb : b ≤ 0xF6#8) (q : List Byte) :
    payloadOf (b :: q) = b :: payloadOf q := by
  simp [payloadOf, hb]

theorem payloadOf_cons_realTime {b : Byte} (hb : 0xF8#8 ≤ b) (q : List Byte) :
    payloadOf (b :: q) = payloadOf q := by
  have hn : ¬ b ≤ 0xF6#8 := by bv_omega
  simp [payloadOf, hn]

theorem realTimeEventsOf_cons_payload {b : Byte} (hb : b ≤ 0xF6#8) (q : List Byte) :
    realTimeEventsOf (b :: q) = realTimeEventsOf q := by
  have hn : ¬ 0xF8#8 ≤ b := by bv_omega
  simp [realTimeEventsOf, hn]

theorem realTimeEventsOf_cons_realTime {b : Byte} (hb : 0xF8#8 ≤ b) (q : List Byte) :
    realTimeEventsOf (b :: q) = .realTime (codeOf b) :: realTimeEventsOf q := by
  simp [realTimeEventsOf, hb]

/-- `n` steps from `s` emit `es`, leave `rest` waiting and running status alone, and end in SysEx with the payload `bs`
collected. -/
def CollectsAfter (n : Nat) (s : State) (rest : List OpWord) (bs : List Byte) (es : List Event) : Prop :=
  ∃ t, run n s = .next t ∧ t.build = s.build ∧ t.inputs = rest ∧ t.parser.rs = s.parser.rs ∧
    Collecting t.parser bs ∧ t.events = s.events ++ es

/-- Two stretches of a stream join end to end. -/
theorem CollectsAfter.trans {m n : Nat} {s : State} {ws rest : List OpWord} {bs bs' : List Byte} {es es' : List Event}
    (h : CollectsAfter m s ws bs es)
    (h' : ∀ u : State, u.build = s.build → u.inputs = ws → Collecting u.parser bs →
      CollectsAfter n u rest bs' es') :
    CollectsAfter (m + n) s rest bs' (es ++ es') := by
  obtain ⟨u, hrun, hbu, hinu, hrsu, hcu, hevu⟩ := h
  obtain ⟨t, hrun', hbt, hint, hrst, hct, hevt⟩ := h' u hbu hinu hcu
  exact ⟨t, (run_add_of_next hrun).trans hrun', hbt.trans hbu, hint, hrst.trans hrsu, hct, by
    rw [hevt, hevu, List.append_assoc]⟩

/-- 0xF0 outside SysEx starts an empty payload (R131). -/
theorem collects_sox {s : State} {ws : List OpWord} (hp : s.parser.phase ≠ .inSysEx)
    (hin : s.inputs = feedWord 0xF0#8 :: ws) : CollectsAfter 1 s ws [] [] := by
  have hstep := (step_feedWord hin).trans (exec_sox_outside (s := s.load ws) hp)
  exact ⟨_, run_succ_of_next hstep, rfl, rfl, rfl, ⟨rfl, rfl, fun i hi => absurd hi (Nat.not_lt_zero i)⟩,
    events_respond _ _⟩

/-- A payload byte with room joins the payload and emits nothing (R162). -/
theorem collects_payloadByte {b : Byte} {s : State} {bs : List Byte} {ws : List OpWord}
    (hb : IsPayload s.build.policy b) (hc : Collecting s.parser bs) (hroom : bs.length < s.build.capacity)
    (hin : s.inputs = feedWord b :: ws) : CollectsAfter 1 s ws (bs ++ [b]) [] := by
  have hstep := (step_feedWord hin).trans
    (exec_payload_of_room (s := s.load ws) hb hc.phase (hc.length.trans_lt hroom))
  exact ⟨_, run_succ_of_next hstep, rfl, rfl, rfl, collecting_append hc b, events_respond _ _⟩

/-- A Real-Time byte is emitted and leaves the payload alone (R190). -/
theorem collects_realTimeByte {b : Byte} {s : State} {bs : List Byte} {ws : List OpWord} (hb : 0xF8#8 ≤ b)
    (hc : Collecting s.parser bs) (hin : s.inputs = feedWord b :: ws) :
    CollectsAfter 1 s ws bs [.realTime (codeOf b)] := by
  rw [byte_realTime b hb] at hin
  have hstep := (step_feedWord hin).trans (exec_rtByte (codeOf b) (s.load ws))
  exact ⟨_, run_succ_of_next hstep, rfl, rfl, rfl, hc, events_respond _ _⟩

/-- A stream of Real-Time bytes and of payload bytes that fit, by induction on the stream: each byte is collected or
emitted as it comes (R162, R190). -/
theorem collects_stream (q : List Byte) {s : State} {bs : List Byte} {rest : List OpWord}
    (hc : Collecting s.parser bs) (hq : ∀ b, b ∈ q → 0xF8#8 ≤ b ∨ IsPayload s.build.policy b)
    (hfit : bs.length + (payloadOf q).length ≤ s.build.capacity) (hin : s.inputs = bytesWords q ++ rest) :
    CollectsAfter q.length s rest (bs ++ payloadOf q) (realTimeEventsOf q) := by
  induction q generalizing s bs with
  | nil => exact ⟨s, rfl, rfl, hin, rfl, by rwa [payloadOf, List.filter_nil, List.append_nil],
      (List.append_nil _).symm⟩
  | cons b q ih =>
    obtain ⟨hb, hq⟩ := List.forall_mem_cons.1 hq
    rw [List.length_cons, Nat.add_comm]
    rcases hb with hb | hb
    · rw [payloadOf_cons_realTime hb] at hfit ⊢
      rw [realTimeEventsOf_cons_realTime hb]
      exact (collects_realTimeByte hb hc hin).trans fun u hbu hinu hcu =>
        ih hcu (hbu ▸ hq) (hbu ▸ hfit) hinu
    · rw [payloadOf_cons_payload hb.1, List.length_cons] at hfit
      rw [payloadOf_cons_payload hb.1, realTimeEventsOf_cons_payload hb.1, List.append_cons]
      exact (collects_payloadByte hb hc (by omega) hin).trans fun u hbu hinu hcu =>
        ih hcu (hbu ▸ hq) (by rw [hbu, List.length_append, List.length_singleton]; omega) hinu

/-! ## One payload byte too many (R163, R169) -/

/-- Payload bytes that exceed the capacity by exactly one return no event each and drop the message: induction on the
bytes, of which the last is the one that overflows (R162, R163). -/
theorem run_overflowing (q : List Byte) {s : State} {ws : List OpWord} (hp : s.parser.phase = .inSysEx)
    (hcap : s.parser.sxLen ≤ s.build.capacity) (hlen : s.parser.sxLen + q.length = s.build.capacity + 1)
    (hq : ∀ b, b ∈ q → IsPayload s.build.policy b) (hin : s.inputs = bytesWords q ++ ws) :
    run q.length s = .next { s.abort with
      inputs := ws, returned := s.returned ++ List.replicate q.length (.fed none) } := by
  induction q generalizing s with
  | nil =>
    rw [List.length_nil] at hlen
    omega
  | cons b q ih =>
    obtain ⟨hb, hq⟩ := List.forall_mem_cons.1 hq
    rw [List.length_cons] at hlen ⊢
    by_cases hl : s.parser.sxLen < s.build.capacity
    · have hstep := (step_feedWord hin).trans
        (exec_payload_of_room (s := s.load (bytesWords q ++ ws)) hb hp hl)
      have hlen' : s.parser.sxLen + 1 + q.length = s.build.capacity + 1 := by omega
      have hrest := ih (s := ((s.load (bytesWords q ++ ws)).withParser (s.parser.append b)).respond (.fed none))
        hp hl hlen' hq rfl
      rw [List.replicate_succ, List.append_cons]
      exact (run_succ_of_next hstep).trans hrest
    · have hfull : s.parser.sxLen = s.build.capacity := by omega
      have hnil : q = [] := List.eq_nil_of_length_eq_zero (by omega)
      subst hnil
      exact run_succ_of_next ((step_feedWord hin).trans (exec_payload_of_full (s := s.load ws) hb hp hfull))

/-- Outside SysEx 0xF7 is a message of its own, and leaves running status (R132, R139, 92 D5). -/
theorem step_eox_outside {s : State} {ws : List OpWord} (hp : s.parser.phase ≠ .inSysEx)
    (hin : s.inputs = feedWord 0xF7#8 :: ws) :
    step s = .next ((s.load ws).abort.respond (.fed (some (.systemCommon 7#3 none)))) :=
  (step_feedWord hin).trans (exec_scByte_outside (c := 7#3) (s := s.load ws) (by decide) hp)

/-! ## The statements -/

/-- Settles O41: 0xF0 starts an empty payload, `collects_stream` fills it, and 0xF7 delivers it. -/
theorem sysExStreamDeliversItsPayload : Obligations.SysExStreamDeliversItsPayload := by
  intro q s rest hp hq hfit hin
  have hin' : s.inputs = feedWord 0xF0#8 :: (bytesWords q ++ feedWord 0xF7#8 :: rest) := by
    simpa [bytesWords] using hin
  have hcollects := (collects_sox hp hin').trans fun u hbu hinu hcu =>
    collects_stream q hcu (hbu ▸ hq) (by rw [hbu, List.length_nil, Nat.zero_add]; exact hfit) hinu
  obtain ⟨u, hrun, hbu, hinu, hrsu, hcu, hevu⟩ := hcollects
  have hend := (step_feedWord hinu).trans (exec_eox_of_collecting (s := u.load rest) hcu (hbu ▸ hfit))
  refine ⟨(u.load rest).abort.respond (.fed (some (.systemCommon 0#3 (some (payloadOf q))))), ?_, hbu, rfl, ?_,
    (events_respond _ _).trans (congrArg (· ++ [_]) hevu)⟩
  · rw [show q.length + 2 = 1 + q.length + 1 by omega, run_add_of_next hrun]
    exact run_succ_of_next hend
  · rw [← hrsu]
    rfl

/-- Settles O42: the bytes drop the message, and 0xF7 then stands outside SysEx (R132, R139). -/
theorem oversizedSysExYieldsNoExclusiveEvent : Obligations.OversizedSysExYieldsNoExclusiveEvent := by
  intro q s rest hp hcap hlen hq hin
  have hin' : s.inputs = bytesWords q ++ feedWord 0xF7#8 :: rest := by
    simpa [bytesWords] using hin
  have hdropped := run_overflowing q hp hcap hlen hq hin'
  exact (run_add_of_next hdropped).trans
    (run_succ_of_next (step_eox_outside (show Phase.idle ≠ .inSysEx by decide) rfl))

/-- Settles O20 (R161). -/
theorem sysExEndDeliversTheBuffer : Obligations.SysExEndDeliversTheBuffer := by
  intro s hp hcap hfilled
  obtain ⟨p, hlen, hget, hend⟩ := endSysEx_of_filled hcap hfilled
  exact ⟨p, hlen, hget, (exec_eox_inSysEx hp).trans hend⟩

/-- Settles O21 (R162). -/
theorem payloadByteIsStoredVerbatim : Obligations.PayloadByteIsStoredVerbatim :=
  fun _ _ hb hq hp hl =>
    ⟨_, read_write_same _ _ _, fun _ hi => read_write_other hi _ _, exec_payload_of_room ⟨hb, hq⟩ hp hl⟩

/-- Settles O22 (R163). -/
theorem payloadByteAtCapacityDropsTheMessage : Obligations.PayloadByteAtCapacityDropsTheMessage :=
  fun _ _ hb hq hp hl => exec_payload_of_full ⟨hb, hq⟩ hp hl

/-- Settles O23: the abort comes first, then each byte takes its `Idle` rule (R101, R131, R132). -/
theorem policyAbortRestartsWithTheByte : Obligations.PolicyAbortRestartsWithTheByte := by
  intro s _ hq
  refine ⟨fun k ch => ?_, ?_, fun i c hic => ?_⟩
  · rw [decodeByte_cvByte, exec_cvInstr, cvStatus_abortOnStatus hq]
    rfl
  · exact scStatus_abortOnStatus hq (by decide)
  · obtain ⟨rfl, h0, h7⟩ : i = decodeByte (scByte c) ∧ c ≠ 0#3 ∧ c ≠ 7#3 := by
      simp only [List.mem_cons, Prod.mk.injEq, List.not_mem_nil, or_false] at hic
      rcases hic with ⟨rfl, rfl⟩ | ⟨rfl, rfl⟩ | ⟨rfl, rfl⟩ | ⟨rfl, rfl⟩ | ⟨rfl, rfl⟩ | ⟨rfl, rfl⟩ <;> decide
    rcases scIdle_cases c s.abort with ⟨hc, _⟩ | ⟨_, h⟩
    · exact absurd hc h0
    · rw [exec_scByte, scStatus_abortOnStatus hq h7, h]
      rfl

/-- Settles O35, by the three things an operation can do to the payload. -/
theorem payloadLengthStaysWithinCapacity : Obligations.PayloadLengthStaysWithinCapacity := by
  intro i s t h
  rw [effect_build (exec_effect h)]
  rcases effect_payload (exec_effect h) with ⟨hlen, _⟩ | ⟨hlen, _⟩ | ⟨hp, hl, _, hlen, _⟩
  · exact ⟨.inr (.inl hlen), fun hcap => hlen.trans_le hcap⟩
  · exact ⟨.inl hlen, fun _ => hlen.trans_le (Nat.zero_le _)⟩
  · exact ⟨.inr (.inr ⟨hp, hl, hlen⟩), fun _ => hlen.trans_le hl⟩

end Sys2Proof.Machine
end

section
/-! PROOFS of the Real-Time family (44_realtime.md): what a Real-Time byte does (R190), and that taking the Real-Time
bytes out of a stream changes neither the registers nor any other event (R246). -/

namespace Sys2Proof.Machine

/-! ## Real-Time words (R62, R190) -/

/-- A Real-Time byte emits its code and changes no register (R190). -/
theorem exec_rtByte_next (c : Code) (s : State) :
    exec (decodeByte (rtByte c)) s = .next (s.respond (.fed (some (.realTime c)))) :=
  exec_rtByte c s

/-- A Real-Time word is the `feed` of a Real-Time byte (R62). -/
theorem decode_of_isRealTimeWord {w : OpWord} (h : isRealTimeWord w = true) :
    ∃ c, decode w = decodeByte (rtByte c) := by
  revert w
  decide

/-- The operations of a stream that are not Real-Time bytes. -/
def withoutRealTime (ws : List OpWord) : List OpWord := ws.filter (fun w => !isRealTimeWord w)

theorem withoutRealTime_cons_realTime {w : OpWord} (h : isRealTimeWord w = true) (ws : List OpWord) :
    withoutRealTime (w :: ws) = withoutRealTime ws := by
  simp [withoutRealTime, h]

theorem withoutRealTime_cons_other {w : OpWord} (h : ¬ isRealTimeWord w = true) (ws : List OpWord) :
    withoutRealTime (w :: ws) = w :: withoutRealTime ws := by
  simp [withoutRealTime, h]

/-! ## Agreement up to Real-Time events (R246) -/

/-- The events returned so far that are not of the Real-Time class (R67). -/
def State.otherEvents (s : State) : List Event := s.events.filter (fun e => !e.isRealTime)

/-- One more result adds its event, unless that is a Real-Time one (R24). -/
theorem otherEvents_of_returned {s t : State} {r : Response} (h : t.returned = s.returned ++ [r]) :
    t.otherEvents = s.otherEvents ++ r.event?.toList.filter (fun e => !e.isRealTime) := by
  have hev : t.events = (s.respond r).events := congrArg (List.filterMap Response.event?) h
  simp [State.otherEvents, hev]

/-- Two instances alike in all that Real-Time bytes may not touch. The operations waiting may differ: the streams that
led here do. -/
structure AgreeButRealTime (s s' : State) : Prop where
  build : s.build = s'.build
  parser : s.parser = s'.parser
  otherEvents : s.otherEvents = s'.otherEvents

/-- Agreement does not look at the operations waiting. -/
theorem AgreeButRealTime.load {s s' : State} (h : AgreeButRealTime s s') (ws ws' : List OpWord) :
    AgreeButRealTime (s.load ws) (s'.load ws') :=
  ⟨h.build, h.parser, h.otherEvents⟩

/-- A Real-Time byte run on one side only keeps the agreement (R190). -/
theorem AgreeButRealTime.respond_realTime {s s' : State} (h : AgreeButRealTime s s') (c : Code) :
    AgreeButRealTime s (s'.respond (.fed (some (.realTime c)))) where
  build := h.build
  parser := h.parser
  otherEvents := by
    rw [otherEvents_of_returned (respond_returned s' _), h.otherEvents]
    simp [Response.event?, Event.isRealTime]

/-- An operation that completes on one side completes on the other, and keeps the agreement. -/
theorem AgreeButRealTime.exec_next {s s' t' : State} (h : AgreeButRealTime s s') {i : Instr}
    (ht' : exec i s' = .next t') : ∃ t, exec i s = .next t ∧ AgreeButRealTime t t' := by
  have hsame := exec_sameAnswer h.build h.parser i
  rw [ht'] at hsame
  cases ht : exec i s with
  | next t =>
    rw [ht] at hsame
    obtain ⟨hb, hb', hp, _, _, r, hr, hr'⟩ := hsame
    refine ⟨t, rfl, hb.trans hb'.symm, hp, ?_⟩
    rw [otherEvents_of_returned hr, otherEvents_of_returned hr', h.otherEvents]
  | fault f =>
    rw [ht] at hsame
    exact hsame.elim
  | refused r =>
    rw [ht] at hsame
    exact hsame.elim

/-! ## Runs -/

/-- A run that reaches its end got past its first step. -/
theorem run_succ_next {n : Nat} {s t : State} (h : run (n + 1) s = .next t) :
    ∃ u, step s = .next u ∧ run n u = .next t := by
  cases hs : step s with
  | next u => exact ⟨u, rfl, (run_succ_of_next hs).symm.trans h⟩
  | fault f =>
    have hs' : Sys2Proof.core.step s = .fault f := hs
    simp [run, Host.Core.run, hs'] at h
  | refused r =>
    have hs' : Sys2Proof.core.step s = .refused r := hs
    simp [run, Host.Core.run, hs'] at h

/-- A run over a list of operations executes the first and runs the others from there. -/
theorem run_load_cons_iff {w : OpWord} {ws : List OpWord} {s t : State} :
    run (w :: ws).length (s.load (w :: ws)) = .next t ↔
      ∃ u, exec (decode w) (s.load ws) = .next u ∧ run ws.length (u.load ws) = .next t := by
  have hload {u : State} (hu : exec (decode w) (s.load ws) = .next u) : u.load ws = u :=
    load_self (effect_inputs (exec_effect hu))
  constructor
  · intro h
    obtain ⟨u, hu, hrun⟩ := run_succ_next h
    rw [step_load_cons] at hu
    exact ⟨u, hu, by rwa [hload hu]⟩
  · rintro ⟨u, hu, hrun⟩
    rw [hload hu] at hrun
    exact (run_succ_of_next ((step_load_cons w ws s).trans hu)).trans hrun

/-- The run without the Real-Time bytes follows the run with them, by induction on the operations: a Real-Time byte is
a step of the one run only, any other operation a step of both. -/
theorem run_withoutRealTime (ws : List OpWord) {s s' t' : State} (h : AgreeButRealTime s s')
    (hrun : run ws.length (s'.load ws) = .next t') :
    ∃ t, run (withoutRealTime ws).length (s.load (withoutRealTime ws)) = .next t ∧ AgreeButRealTime t t' := by
  induction ws generalizing s s' with
  | nil =>
    cases hrun
    exact ⟨_, rfl, h.load [] []⟩
  | cons w ws ih =>
    obtain ⟨u', hu', hrun'⟩ := run_load_cons_iff.1 hrun
    by_cases hw : isRealTimeWord w = true
    · rw [withoutRealTime_cons_realTime hw]
      obtain ⟨c, hc⟩ := decode_of_isRealTimeWord hw
      rw [hc, exec_rtByte_next] at hu'
      cases hu'
      exact ih (h.respond_realTime c) hrun'
    · rw [withoutRealTime_cons_other hw]
      obtain ⟨u, hu, hagree⟩ := (h.load (withoutRealTime ws) ws).exec_next hu'
      obtain ⟨t, ht, hagree'⟩ := ih hagree hrun'
      exact ⟨t, run_load_cons_iff.2 ⟨u, hu, ht⟩, hagree'⟩

/-! ## The statements -/

/-- Settles O43: `run_withoutRealTime` from one and the same state. -/
theorem realTimeBytesAreTransparent : Obligations.RealTimeBytesAreTransparent := by
  intro ws s t hrun
  obtain ⟨t', hrun', hagree⟩ := run_withoutRealTime ws ⟨rfl, rfl, rfl⟩ hrun
  exact ⟨t', hrun', hagree.parser, hagree.build, hagree.otherEvents⟩

/-- Settles O24: each operation of the list is that of its code's byte (R62, R190). -/
theorem realTimeByteEmitsAndChangesNothing : Obligations.RealTimeByteEmitsAndChangesNothing := by
  intro s i c hic
  obtain rfl : i = decodeByte (rtByte c) := by
    simp only [List.mem_cons, Prod.mk.injEq, List.not_mem_nil, or_false] at hic
    rcases hic with ⟨rfl, rfl⟩ | ⟨rfl, rfl⟩ | ⟨rfl, rfl⟩ | ⟨rfl, rfl⟩ | ⟨rfl, rfl⟩ | ⟨rfl, rfl⟩ | ⟨rfl, rfl⟩ |
      ⟨rfl, rfl⟩ <;> rfl
  exact exec_rtByte_next c s

end Sys2Proof.Machine
end

section
/-! PROOFS of the control family (45_control.md): `RESET` in every state. -/

namespace Sys2Proof.Machine

/-- Settles O25, by `exec_reset`: the registers it writes are `Parser.reset`, R23's table (R210). -/
theorem resetDiscardsEverything : Obligations.ResetDiscardsEverything := fun s => exec_reset s

end Sys2Proof.Machine
end

section
/-! PROOFS of the exceptions family (60_exceptions.md): no operation and no run stops where the invariants hold (R220,
R231), and operations on different instances do not interact (R229). -/

namespace Sys2Proof.Machine

/-! ## No run stops (R220, R231) -/

/-- A step from a state that meets the invariants completes: it is idle or runs the next operation. -/
theorem step_total_of_inv {s : State} (hs : s.Inv) : ∃ t, step s = .next t := by
  cases hin : s.inputs with
  | nil => exact ⟨s, step_of_no_inputs hin⟩
  | cons w ws =>
    rw [← load_self hin, step_load_cons]
    exact exec_total_of_inv (load_inv hs ws) (decode w)

/-- Settles O30, by induction on the number of steps: each one completes and keeps the invariants. -/
theorem everyRunIsSafe : Obligations.EveryRunIsSafe := by
  intro n
  induction n with
  | zero => exact fun s _ => ⟨s, run_zero s⟩
  | succ n ih =>
    intro s hs
    obtain ⟨u, hu⟩ := step_total_of_inv hs
    obtain ⟨t, ht⟩ := ih u (everyStepKeepsTheInvariants s u hs hu)
    exact ⟨t, (run_succ_of_next hu).trans ht⟩

/-- Settles O29. -/
theorem everyOperationCompletes : Obligations.EveryOperationCompletes := fun i _ hs => exec_total_of_inv hs i

/-! ## Several instances (R229) -/

/-- A step of instance `k` replaces entry `k` by what its own step answers. Where there is no instance `k` any `t`
serves, since the replacement then does nothing (log entry 22). -/
theorem stepInstance_next_iff {k : Nat} {sys sys' : List State} :
    stepInstance k sys = .next sys' ↔ ∃ t, sys' = sys.set k t ∧ ∀ s, sys[k]? = some s → step s = .next t := by
  cases hk : sys[k]? with
  | none =>
    have hset (t : State) : sys.set k t = sys := List.set_eq_of_length_le (List.getElem?_eq_none_iff.1 hk)
    have hstep : stepInstance k sys = .next sys := by simp [stepInstance, hk]
    rw [hstep]
    constructor
    · rintro ⟨⟩
      exact ⟨State.reset, (hset _).symm, by simp⟩
    · rintro ⟨t, rfl, _⟩
      rw [hset]
  | some s => cases hs : step s <;> simp [stepInstance, hk, hs, eq_comm]

/-- Settles O40: each step replaces one entry by what that entry alone decides, and replacements of different entries
commute. -/
theorem instancesDoNotInteract : Obligations.InstancesDoNotInteract := by
  intro i j sys sys₁ sys₂ hij h₁ h₂
  obtain ⟨t, rfl, ht⟩ := stepInstance_next_iff.1 h₁
  obtain ⟨u, rfl, hu⟩ := stepInstance_next_iff.1 h₂
  rw [List.getElem?_set_ne hij] at hu
  refine ⟨fun k hk => List.getElem?_set_ne hk.symm, sys.set j u, stepInstance_next_iff.2 ⟨u, rfl, hu⟩,
    stepInstance_next_iff.2 ⟨t, List.set_comm t u hij, ?_⟩⟩
  rwa [List.getElem?_set_ne hij.symm]

end Sys2Proof.Machine
end

section
/-! PROOFS of the reset and hazards family (70_reset_and_hazards.md): the build parameters stand (R241), and a payload
read port shows the payload beside its event (R245). -/

namespace Sys2Proof.Machine

/-- Settles O32, by the cases of a completed operation: `effect_build`. -/
theorem buildParametersNeverChange : Obligations.BuildParametersNeverChange :=
  fun _ _ _ h => effect_build (exec_effect h)

/-- Beside an event with a payload the port shows that payload up to its end (R245). -/
theorem payloadPort_of_lastEvent {t : State} {c : Code} {p : List Byte}
    (h : t.lastEvent = some (.systemCommon c (some p))) {i : Nat} (hi : i < p.length) :
    some (payloadPort t i) = p[i]? := by
  simp [payloadPort, h, hi]

/-- Settles O46: by INV6 the 0xF7 delivers the bytes that the buffer held (R161), and they are what the port shows. -/
theorem payloadPortShowsThePayload : Obligations.PayloadPortShowsThePayload := by
  intro s hs hp
  obtain ⟨hcap, hfilled, _⟩ := hs.bufferFilled hp
  obtain ⟨p, hlen, hget, hend⟩ := endSysEx_of_filled hcap hfilled
  refine ⟨_, (exec_eox_inSysEx hp).trans hend, by simp [State.eventValid, Response.event?], fun i hi => ?_⟩
  exact (payloadPort_of_lastEvent (lastEvent_respond _ _) (hi.trans_eq hlen.symm)).trans (hget i hi)

end Sys2Proof.Machine
end
